-- ==== Sys2Proof/Word.lean ====
section
/-! DEFINITION. The word types of the block, the small fixed-size groups its parameters come in, and real numbers as plain
data. -/

namespace Sys2Proof

/-- A dibit, "a 2-bit symbol": bit 1 is its more significant bit (00 section 7, 20 R46 a). -/
abbrev Dibit := BitVec 2

/-- A command word of format CW16 (30 R62). -/
abbrev CommandWord := BitVec 16

/-- Four values indexed by a dibit or by a threshold number: `PHASE_INC[0..3]`, `T[0..3]` (00 R8). -/
structure Quad (α : Type) where
  x0 : α
  x1 : α
  x2 : α
  x3 : α
deriving DecidableEq, Repr, Inhabited

/-- The same four values, each mapped. -/
def Quad.map {α β : Type} (f : α → β) (q : Quad α) : Quad β := ⟨f q.x0, f q.x1, f q.x2, f q.x3⟩

/-- Eight naturals: a parameter vector `U[0..7]` (30 R65), or the widths `PARAM_W[0..7]` (00 R8).
Exactly eight, by the type (`NPARAM = 8`, 00 R6). -/
structure Params where
  u0 : Nat
  u1 : Nat
  u2 : Nat
  u3 : Nat
  u4 : Nat
  u5 : Nat
  u6 : Nat
  u7 : Nat
deriving DecidableEq, Repr, Inhabited

/-- A real number as plain data: a rational written out, or any real at all, named by a number. The real that a name
stands for is free (`Config.namedReals`). DESIGN CHOICE, safe, entry 5. -/
inductive RealNum where
  | rat (q : Rat)
  | named (k : Nat)
deriving DecidableEq, Repr, Inhabited

/-- The real number that a datum stands for, when name `k` stands for `v k`. -/
noncomputable def RealNum.valueWith (v : Nat → ℝ) : RealNum → ℝ
  | .rat q => (q : ℝ)
  | .named k => v k

end Sys2Proof
end

