-- ==== Sys2Proof/Config.lean ====
section
/-! DEFINITION. What is fixed for the block: its constants, the set of straps and parameters a reset is given,
and the free values, which have no body. -/

namespace Sys2Proof

/-- `PHASE_COUNT`, fixed (00 R5). -/
def Config.phaseCount : Nat := 8

/-- `WAVE_COUNT`, fixed (00 R5). -/
def Config.waveCount : Nat := 64

/-- `CW_PER_UNIT`, codewords in a voice data unit, fixed (00 R6). -/
def Config.cwPerUnit : Nat := 9

/-- The straps `CFG` (10 R25) and the plain-data parameters of 00 R8, given together on the `RESET` port (70 R185).
`ι` is the type of the integers that reset checks: `Int` as they arrive, `Nat` once latched. -/
structure StrapSet (ι : Type) where
  /-- `CFG.COMPLEX`: selects the variant (41 R91). -/
  complex : Bool
  /-- `CFG.FLOAT_OUT`: carried, read by no rule (00 R9). -/
  floatOut : Bool
  /-- `CFG.GAIN`, a real (10 R25). -/
  gain : RealNum
  /-- `CFG.D`, the decimation stride. -/
  d : ι
  /-- `CFG.NTHRESH`, the number of thresholds. -/
  nthresh : ι
  /-- `CFG.T[0..3]`, any reals, in no assumed order (10 R25, 44 R160). -/
  t : Quad RealNum
  /-- `CFG.PHASE_COUNT`. -/
  phaseCount : ι
  /-- `CFG.WAVE_COUNT`. -/
  waveCount : ι
  /-- `CFG.SPS`, samples per symbol. -/
  sps : ι
  /-- `PHASE_INC[0..3]` (41 R96). -/
  phaseInc : Quad Int
  /-- `FRAME_BITS`, the frame size in bits. -/
  frameBits : ι
  /-- `SYNC_WORD[0]` (43 R145). -/
  syncWord0 : BitVec 64
  /-- `SYNC_WORD[1]` (43 R145). -/
  syncWord1 : BitVec 64
  /-- `ZERO_POS`, a finite set of frame positions (43 R146), as a list whose order and repeats do not matter. -/
  zeroPos : List Nat
  /-- `CW_BITS`, the codeword size. -/
  cwBits : Nat
  /-- `PARAM_W[0..7]`, the widths of the parameter fields (30 R65). -/
  paramW : Params
  /-- Which external functions and tables come with this reset (70 R185, 00 R8): `Encode`, `Interleave`, `SetSync` are
  those of `Config.framePrims` at this number, `BASE`, `REFPHASE`, `ROM_R` those of `Config.waveTables`. The number is a
  name and means nothing else. DESIGN CHOICE, safe, entry 7. -/
  externals : Nat
deriving DecidableEq, Repr, Inhabited

/-- The straps as they stand on the `RESET` port, unchecked. -/
abbrev Straps := StrapSet Int

/-- `CFG`, the straps latched by a reset that found no error (10 R25). -/
abbrev Cfg := StrapSet Nat

/-- The straps that `State.reset` is the reset of: test configuration TC1 with the frame parameters of TF1
(95 part 2). DESIGN CHOICE, unsafe, entry 3: the spec gives no strap a default. -/
def Config.resetCfg : Cfg :=
  { complex := true, floatOut := false, gain := .rat 1, d := 1, nthresh := 4,
    t := ⟨.rat (-2), .rat 0, .rat 2, .rat 4⟩,
    phaseCount := 8, waveCount := 64, sps := 4, phaseInc := ⟨1, 3, 7, 5⟩, frameBits := 84,
    syncWord0 := 0x1B00000000000000, syncWord1 := 0xE400000000000000, zeroPos := [65, 82, 83],
    cwBits := 2, paramW := ⟨1, 1, 1, 1, 1, 1, 1, 1⟩, externals := 0 }

/-- What the names of reals stand for, with the order of the reals they stand for. The order is given as data so that a
step can be computed; it has to be the order of the values. -/
structure NamedReals where
  value : Nat → ℝ := fun _ => 0
  less : RealNum → RealNum → Bool := fun a b =>
    match a, b with
    | .rat p, .rat q => decide (p < q)
    | .rat p, .named _ => decide (p < 0)
    | .named _, .rat q => decide (0 < q)
    | .named _, .named _ => false
  less_iff : ∀ a b, less a b = true ↔ a.valueWith value < b.valueWith value := by
    rintro (p | i) (q | j) <;> simp [RealNum.valueWith]
deriving Inhabited

/-- What the names of reals stand for: free, no value, so a name stands for any real. DESIGN CHOICE, safe, entry 5. -/
opaque Config.namedReals : NamedReals

/-- The three external primitives of the frame assembler (00 R8, 43 R141), total functions of their arguments.
Each gives a vector of a known size, so each is held by the bits of its result: bit `i` of `Encode(U)`, element `i`
of `Interleave(F, cw, pos)`, element `i` of `SetSync(F, hw)`. DEDUCED, safe, entry 8. -/
structure FramePrims where
  encodeBit : Params → Nat → Bool
  interleaveBit : List Bool → List Bool → Nat → Nat → Bool
  setSyncBit : List Bool → BitVec 64 → Nat → Bool
deriving Inhabited

/-- `Encode`, `Interleave` and `SetSync`, for each number a reset may give: free, no value (00 R8). DEDUCED, safe,
entry 7. -/
opaque Config.framePrims : Nat → FramePrims

/-- The tables the waveform ROM comes from (00 R8): `BASE[w][k]`, `REFPHASE[w]`, and the real variant's
`ROM_R[w][k]`, all over the reals. -/
structure WaveTables where
  base : Nat → Nat → ℝ
  refPhase : Nat → Int
  romR : Nat → Nat → ℝ
deriving Nonempty

/-- `BASE`, `REFPHASE` and `ROM_R`, for each number a reset may give: free, no value (00 R8). DEDUCED, safe, entry 7. -/
noncomputable opaque Config.waveTables : Nat → WaveTables

end Sys2Proof
end

