-- ==== Sys2Proof/Syntax.lean ====
section
/-! DEFINITION. The commands of the block, one constructor per row of spec/opcode_table.json; what the host sends
beside a command word; and the assembly lines of 30 R74 and R75. -/

namespace Sys2Proof

/-- The five commands (30 R63). The operands of APPCW and CLASSIFY travel on the ports `PARAM` and `SYM_IN`
beside the word (30 R61), so they are in `Command`, not here. -/
inductive Instr where
  /-- PUSHD: append the dibit to the queue (41 R92). -/
  | pushd (d : BitVec 2)
  /-- APPCW: append a codeword to the unit in progress (43 R142). -/
  | appcw
  /-- PRODUCE: emit `n` samples (41 R100). -/
  | produce (n : BitVec 12)
  /-- MUTE: assert (1) or clear (0) the mute control (41 R104). -/
  | mute (m : BitVec 1)
  /-- CLASSIFY: quantise the sample on `SYM_IN` (44 R156). -/
  | classify
deriving DecidableEq, Repr

/-- One command as the host issues it: the word on `CMD` with what stands on `PARAM` and `SYM_IN` (30 R61, R62). The sample is a real number (30 R68). -/
structure Command where
  word : CommandWord
  param : Params
  symIn : RealNum
deriving DecidableEq, Repr, Inhabited

/-- What the host can do to the block: a reset with straps (70 R185) or a command (20 R50). Each is indivisible
(70 R188). -/
inductive Request where
  | reset (straps : Straps)
  | command (c : Command)
deriving DecidableEq, Repr, Inhabited

/-- One line of the spec's assembly notation (30 R74), its pseudo-instructions (30 R75) and the `.word` of program P6
(95 part 4), operands as written and not yet checked. -/
inductive AsmLine where
  | pushd (d : Nat)
  | appcw (u : Params)
  | produce (n : Nat)
  | mute (m : Nat)
  | classify (s : Rat)
  | tick
  | unmute
  | pushds (ds : List Nat)
  | symbols (k : Nat)
  | word (w : Nat)
deriving DecidableEq, Repr

end Sys2Proof
end

