-- ==== Sys2Proof/WellFormed.lean ====
section
/-! DEFINITION. The checks on terms that the types do not already make. A term of `Instr` needs none: its fields have
exactly the widths of 30 R63, so every `Instr` has a word. What can be ill-formed is a parameter vector (30 R65), a
request that carries one, and an assembly line with an operand out of range (30 R74). -/

namespace Sys2Proof

/-- `U[i] < 2^PARAM_W[i]` for each of the eight fields (30 R65). -/
def Params.fits (w u : Params) : Bool :=
  decide (u.u0 < 2 ^ w.u0) && decide (u.u1 < 2 ^ w.u1) && decide (u.u2 < 2 ^ w.u2) && decide (u.u3 < 2 ^ w.u3) &&
  decide (u.u4 < 2 ^ w.u4) && decide (u.u5 < 2 ^ w.u5) && decide (u.u6 < 2 ^ w.u6) && decide (u.u7 < 2 ^ w.u7)

/-- The host's duty towards a block configured by `c`: the fields on `PARAM` are within their widths (42 R132). -/
def Request.wf (c : Cfg) : Request → Bool
  | .reset _ => true
  | .command x => Params.fits c.paramW x.param

/-- The number of samples `symbols k` asks for: `k * ceil(SPS / D)` (30 R75). With `D = 0`, which no good reset leaves, the
quotient is taken as 0. DESIGN CHOICE, unsafe, entry 21. -/
def symbolsCount (c : Cfg) (k : Nat) : Nat := k * ((c.sps + c.d - 1) / c.d)

/-- The operands of an assembly line are in the ranges of 30 R74; "an operand out of the stated range is an assembly
error". `pushds` is written with at least one dibit (30 R75) and nothing is said of an empty list: here it is a line that
assembles to no command. DESIGN CHOICE, unsafe, entry 21. -/
def AsmLine.wf (c : Cfg) : AsmLine → Bool
  | .pushd d => decide (d ≤ 3)
  | .appcw u => Params.fits c.paramW u
  | .produce n => decide (n ≤ 4095)
  | .mute m => decide (m ≤ 1)
  | .classify _ => true
  | .tick => true
  | .unmute => true
  | .pushds ds => ds.all fun d => decide (d ≤ 3)
  | .symbols k => decide (symbolsCount c k ≤ 4095)
  | .word w => decide (w < 2 ^ 16)

end Sys2Proof
end

