-- ==== Sys2Proof/Decode.lean ====
section
/-! DEFINITION. Decoding a command word (30 R73), total on 16-bit words and refusing by name; then the encoder, and
the host's view of the decoder. -/

namespace Sys2Proof

/-- Why a word is reserved (30 R70). -/
inductive DecodeError where
  /-- `op` is 0x0 or 0x6 to 0xF. -/
  | reservedOp
  /-- `op` names a command and a must-be-zero bit of `arg` is set. -/
  | mustBeZero
deriving DecidableEq, Repr

/-- `op = c[15:12]` (30 R62). -/
def opField (c : CommandWord) : BitVec 4 := c.extractLsb' 12 4

/-- `arg = c[11:0]` (30 R62). -/
def argField (c : CommandWord) : BitVec 12 := c.extractLsb' 0 12

/-- The command a word spells (30 R73). -/
def decode (c : CommandWord) : Except DecodeError Instr :=
  if opField c = 0x1 then
    if (argField c).extractLsb' 2 10 = 0 then .ok (.pushd ((argField c).extractLsb' 0 2)) else .error .mustBeZero
  else if opField c = 0x2 then
    if argField c = 0 then .ok .appcw else .error .mustBeZero
  else if opField c = 0x3 then .ok (.produce (argField c))
  else if opField c = 0x4 then
    if (argField c).extractLsb' 1 11 = 0 then .ok (.mute ((argField c).extractLsb' 0 1)) else .error .mustBeZero
  else if opField c = 0x5 then
    if argField c = 0 then .ok .classify else .error .mustBeZero
  else .error .reservedOp

/-- The word of a command, `EncodeCmd` (30 R63, R73): `op` above `arg`. -/
def encode : Instr → CommandWord
  | .pushd d => 0x1#4 ++ (0#10 ++ d)
  | .appcw => 0x2#4 ++ 0#12
  | .produce n => 0x3#4 ++ n
  | .mute m => 0x4#4 ++ (0#11 ++ m)
  | .classify => 0x5#4 ++ 0#12

/-- `match` of the row a command is an instance of (30 R63). -/
def rowMatch : Instr → CommandWord
  | .pushd _ => 0x1000
  | .appcw => 0x2000
  | .produce _ => 0x3000
  | .mute _ => 0x4000
  | .classify => 0x5000

/-- `mask` of that row (30 R63). -/
def rowMask : Instr → CommandWord
  | .pushd _ => 0xFFFC
  | .appcw => 0xFFFF
  | .produce _ => 0xF000
  | .mute _ => 0xFFFE
  | .classify => 0xFFFF

/-- The decoder's answer on a word numbered as spec/opcode_table.json numbers it. Every command has 16 bits (30 R72):
bits above `nbits` are 0, and no command is longer. -/
def decodeTableWord (nbits w : Nat) : Option Instr :=
  if nbits ≤ 16 then
    match decode (BitVec.ofNat 16 (w % 2 ^ nbits)) with
    | .ok i => some i
    | .error _ => none
  else none

end Sys2Proof
end

