-- ==== Sys2Proof/Machine/State.lean ====
section
/-! DEFINITION. The state of the block (10 R10, R25, R26) with its ports, the state right after reset, and the reasons
a step can stop. -/

namespace Sys2Proof.Machine

/-- No command raises an exception (60 R167), and a configuration error found by reset is a next state with `FAIL = 1`
(60 R166). So there is no fault: the type is empty, and nothing can raise one. Safe. -/
inductive Fault where
deriving DecidableEq, Repr

/-- The cases the spec refuses: "the spec gives the input no meaning; a model must not step on it" (00 section 8). -/
inductive Refusal where
  /-- An instruction without a meaning yet; raised by `exec`'s refused arms only. Safe. -/
  | notModelled (mnemonic : String)
  /-- A reserved command word (30 R70, 60 R168); raised by `step`. Safe. -/
  | reservedWord (why : DecodeError)
  /-- A command in the FAILED condition (60 R170); raised by every command. Safe. -/
  | blockFailed
  /-- A field on `PARAM` wider than `PARAM_W` (30 R65, 93 U16); raised by APPCW. Safe. -/
  | paramOutOfWidth
  /-- A ROM offset above `SPS` (20 R41, R42, R47); raised by PRODUCE, in states no run reaches. Safe. -/
  | romIndexOutOfRange
  /-- A frame index not below `FRAME_BITS` (20 R44, R47); raised by APPCW, in states no run reaches. Safe. -/
  | frameIndexOutOfRange
  /-- A codeword position above 8 (00 R8, 43 R144); raised by APPCW, in states no run reaches. Safe. -/
  | codewordPositionOutOfRange
deriving DecidableEq, Repr

/-- One sample on `OUT`, named by the ROM element it is a copy of (40 R87), or `ZERO` of the variant (00 section 7).
Its value is `Sample.value`. -/
inductive Sample where
  /-- `ZERO` of the complex variant, `(0, 0)`. -/
  | zeroC
  /-- `ZERO` of the real variant, `0`. -/
  | zeroR
  /-- `ROM_C[p][w][k]` (20 R41). -/
  | romC (p : BitVec 3) (w : BitVec 6) (k : Nat)
  /-- `ROM_R[w][k]` (20 R42). -/
  | romR (w : BitVec 8) (k : Nat)
deriving DecidableEq, Repr

/-- One thing that leaves the block: a sample on `OUT` or a dibit on `DIBIT_OUT` (30 R61). -/
inductive Emission where
  | sample (x : Sample)
  | dibit (d : Dibit)
deriving DecidableEq, Repr

/-- The state. The first fourteen fields are 10 R10's datapath, memories and counters, then the reset outcome, then the
latched straps (10 R25). The last six are the ports and the counter of free values, the model's own. -/
structure State where
  /-- `PHASE`, units of 45 degrees (10 R13). -/
  phase : BitVec 3
  /-- `SR`, three dibits, newest low (10 R14). -/
  sr : BitVec 6
  /-- `SR8`, four dibits, real variant (10 R15). -/
  sr8 : BitVec 8
  /-- `PREV`, the dibit of the boundary before (10 R16). -/
  prev : Dibit
  /-- `CURSOR`, the offset of the next sample (10 R17). -/
  cursor : Nat
  /-- `ACT_V`: an entry is selected (10 R18). -/
  actV : Bool
  /-- `ACT_P` (10 R18). -/
  actP : BitVec 3
  /-- `ACT_W` (10 R18). -/
  actW : BitVec 6
  /-- `ACT_W8`, real variant (10 R18). -/
  actW8 : BitVec 8
  /-- `MUTE` (10 R19). -/
  mute : Bool
  /-- `QUEUE`, head first (10 R21). -/
  queue : List Dibit
  /-- `FRAME`, element 0 first (10 R22). -/
  frame : List Bool
  /-- `CWCOUNT`, legal 0 to 8 (10 R23). -/
  cwCount : BitVec 4
  /-- `UNIT`, units drained (10 R24). -/
  unit : Nat
  /-- `FAIL` (10 R26). -/
  fail : Bool
  /-- `ERRCODE` (10 R26). -/
  errCode : BitVec 4
  /-- `CFG` and the parameters given with it (10 R25, 00 R8). -/
  cfg : Cfg
  /-- What stands on port `PARAM` for the command being performed (30 R61). -/
  param : Params
  /-- What stands on port `SYM_IN` for the command being performed (30 R61). -/
  symIn : RealNum
  /-- The host's requests not yet taken, first first. DESIGN CHOICE, safe, entry 1. -/
  requests : List Request
  /-- What has left the block since reset, oldest first (70 R200). DESIGN CHOICE, safe, entry 14. -/
  out : List Emission
  /-- What PRODUCE has returned since reset, oldest first (41 R100). DESIGN CHOICE, safe, entry 14. -/
  counts : List Nat
  /-- The counter `Config.unspecifiedState` is applied to. DESIGN CHOICE, safe, entry 9. -/
  freeIx : Nat
deriving DecidableEq, Repr, Inhabited

/-- The state after a reset with straps `c` that found no error (10 R31), with idle ports. -/
def State.initial (c : Cfg) : State :=
  { phase := 0, sr := 0, sr8 := 0, prev := 0, cursor := 0, actV := false, actP := 0, actW := 0, actW8 := 0,
    mute := false, queue := [], frame := List.replicate c.frameBits false, cwCount := 0, unit := 0,
    fail := false, errCode := 0, cfg := c,
    param := ⟨0, 0, 0, 0, 0, 0, 0, 0⟩, symIn := .rat 0, requests := [], out := [], counts := [], freeIx := 0 }

/-- The machine right after reset (10 R31), for the straps `Config.resetCfg` (entry 3). -/
def State.reset : State := State.initial Config.resetCfg

end Sys2Proof.Machine

/-- What a failed reset leaves, apart from `FAIL` and `ERRCODE`: "every other piece of state is unspecified" (10 R31).
Free, no value, a fresh one for every index. DEDUCED, safe, entry 9. -/
opaque Sys2Proof.Config.unspecifiedState : Nat → Sys2Proof.Machine.State
end

