-- ==== Sys2Proof/Machine/Flags.lean ====
section
/-! DEFINITION. The two flags, the machine state derived from them, and the status a host can see. There are no
condition codes (10 R20). -/

namespace Sys2Proof.Machine

/-- The document's three states (41 R90). -/
inductive Mode where
  | idle
  | emitting
  | muted
deriving DecidableEq, Repr

/-- `STATE`, a function of `MUTE` and `ACT_V` (10 R20). -/
def State.mode (s : State) : Mode :=
  if s.mute then .muted else if s.actV then .emitting else .idle

/-- Writing `MUTE`; only the MUTE command does (10 R19). -/
def setMute (m : Bool) (s : State) : State := { s with mute := m }

/-- Clearing `ACT_V`: the active entry is given up, and `ACT_P`, `ACT_W`, `ACT_W8` keep their values (10 R18, D32). -/
def clearActive (s : State) : State := { s with actV := false }

/-- What a host can see besides the outputs (10 R27). -/
structure Status where
  mute : Bool
  mode : Mode
  fail : Bool
  errCode : BitVec 4
  queueLength : Nat
deriving DecidableEq, Repr

/-- The status of a state, read directly: the spec defines no read command (10 R27). -/
def State.status (s : State) : Status :=
  { mute := s.mute, mode := s.mode, fail := s.fail, errCode := s.errCode, queueLength := s.queue.length }

end Sys2Proof.Machine
end

