-- ==== Sys2Proof/Machine/Operands.lean ====
section
/-! DEFINITION. Operand assembly (30 R64 to R69): every immediate is unsigned and zero-extended, and the wide operands
are read from their ports. -/

namespace Sys2Proof.Machine

/-- PUSHD's dibit, `arg[1:0]`, used as it stands (30 R64). -/
def dibitOperand (d : BitVec 2) : Dibit := d

/-- PRODUCE's count, `zext(arg[11:0])`, not scaled (30 R66). -/
def countOperand (n : BitVec 12) : Nat := n.toNat

/-- MUTE's operand, 1 asserts (30 R67). -/
def muteOperand (m : BitVec 1) : Bool := m = 1

/-- APPCW's vector `U[0..7]`, read from `PARAM` untouched (30 R65). A field outside its width "cannot be expressed" on
the port, and the spec's treatment of it is to refuse (93 U16). DEDUCED, safe, entry 13. -/
def paramOperand (s : State) : Except Refusal Params :=
  if Params.fits s.cfg.paramW s.param then .ok s.param else .error .paramOutOfWidth

/-- CLASSIFY's sample, read from `SYM_IN` as it stands (30 R68). -/
def sampleOperand (s : State) : RealNum := s.symIn

/-- The real number a datum stands for. -/
noncomputable def realValue (N : NamedReals) (x : RealNum) : ℝ := x.valueWith N.value

/-- `a < b` on real numbers, exact (44 R162): computed on two rationals, and given by the order of the names otherwise. -/
def realLess (N : NamedReals) (a b : RealNum) : Bool :=
  match a, b with
  | .rat p, .rat q => decide (p < q)
  | .rat p, .named j => N.less (.rat p) (.named j)
  | .named i, .rat q => N.less (.named i) (.rat q)
  | .named i, .named j => N.less (.named i) (.named j)

/-- The word with the dibit shifted in at the bottom: `((v << 2) | d)` masked to the width of `v`, which is the mask 63
for `SR` (41 R95) and 255 for `SR8` (41 R98). -/
def shiftInDibit {w : Nat} (v : BitVec w) (d : Dibit) : BitVec w := (v <<< 2) ||| d.setWidth w

/-- `PHASE_INC[d]` (41 R96). -/
def phaseIncOf (c : Cfg) (d : Dibit) : Int :=
  if d = 0 then c.phaseInc.x0 else if d = 1 then c.phaseInc.x1 else if d = 2 then c.phaseInc.x2 else c.phaseInc.x3

/-- `(PHASE + inc) mod 8`: the exact sum, then its residue in 0 to 7, also for a negative increment (41 R96, R107 a). -/
def addPhase (p : BitVec 3) (inc : Int) : BitVec 3 := BitVec.ofInt 3 ((p.toNat : Int) + inc)

/-- `hi ++ lo`, the more significant bit first (20 R46 b, 43 R147). -/
def dibitOf (hi lo : Bool) : Dibit := BitVec.ofBool hi ++ BitVec.ofBool lo

end Sys2Proof.Machine
end

