-- ==== Sys2Proof/Machine/Ops.lean ====
section
/-! DEFINITION. The named operations over the block's memories and registers (20 R41 to R44), the outputs, and the one
exceptional event with its way back: reset, `CfgError` and the FAILED condition. -/

namespace Sys2Proof.Machine

/-! ### The dibit queue (20 R43) -/

/-- `QPush(d)`: `QUEUE <- QUEUE ++ [d]`. -/
def qPush (d : Dibit) (s : State) : State := { s with queue := s.queue ++ [d] }

/-- `QPush` of each dibit in order (43 R148). -/
def qPushAll (ds : List Dibit) (s : State) : State := ds.foldl (fun s d => qPush d s) s

/-- `QFlush()`: `QUEUE <- []`. -/
def qFlush (s : State) : State := { s with queue := [] }

/-- `QEmpty()` and `QPop()` together: nothing when the queue is empty, else the head, with the head removed. -/
def qPop (s : State) : Option (Dibit × State) :=
  match s.queue with
  | [] => none
  | d :: rest => some (d, { s with queue := rest })

/-! ### The waveform ROM (20 R41, R42)

The phase and waveform indices are in range by their types; the offset is checked. DEDUCED, safe, entry 12. -/

/-- `RomRead(p, w, k)`, defined for `k <= SPS`; the sample is named by its indices (40 R87). -/
def romRead (c : Cfg) (p : BitVec 3) (w : BitVec 6) (k : Nat) : Except Refusal Sample :=
  if k ≤ c.sps then .ok (.romC p w k) else .error .romIndexOutOfRange

/-- `RomReadR(w, k)`, defined for `k <= SPS`. -/
def romReadR (c : Cfg) (w : BitVec 8) (k : Nat) : Except Refusal Sample :=
  if k ≤ c.sps then .ok (.romR w k) else .error .romIndexOutOfRange

/-! ### The frame buffer (20 R44) -/

/-- `FrameBit(i)`. -/
def frameBit (f : List Bool) (i : Nat) : Except Refusal Bool :=
  match f[i]? with
  | some b => .ok b
  | none => .error .frameIndexOutOfRange

/-- `FrameSet(i, b)`. -/
def frameSet (f : List Bool) (i : Nat) (b : Bool) : Except Refusal (List Bool) :=
  if i < f.length then .ok (f.set i b) else .error .frameIndexOutOfRange

/-- `FrameClear()`: `FRAME_BITS` zeros. -/
def frameClear (c : Cfg) : List Bool := List.replicate c.frameBits false

/-! ### The outputs (30 R61, 20 R55) -/

/-- The samples of one PRODUCE leave on `OUT` in tick order, and PRODUCE returns its count (41 R100). -/
def emitSamples (n : Nat) (xs : List Sample) (s : State) : State :=
  { s with out := s.out ++ xs.map .sample, counts := s.counts ++ [n] }

/-- The result of CLASSIFY leaves on `DIBIT_OUT` (44 R156). -/
def emitDibit (d : Dibit) (s : State) : State := { s with out := s.out ++ [.dibit d] }

/-! ### The FAILED condition (60 R170) -/

/-- A command is performed only outside FAILED; in FAILED it is refused, and nothing is written or emitted. -/
def unlessFailed (s : State) (r : Except Refusal State) : Host.Outcome State Fault Refusal :=
  if s.fail then .refused .blockFailed
  else
    match r with
    | .ok t => .next t
    | .error e => .refused e

/-! ### Reset, its checks and the configuration error (70 R185, R186, 60 R166) -/

/-- The first check that fails, in ascending order of code (60 R169, 70 R186). -/
def checkStraps (x : Straps) : Option (BitVec 4) :=
  if x.phaseCount ≠ 8 ∨ x.waveCount ≠ 64 ∨ x.sps < 1 then some 1
  else if x.nthresh ≠ 4 then some 2
  else if x.d < 1 ∨ x.d > x.sps then some 3
  else if x.frameBits % 2 ≠ 0 ∨ x.frameBits < 64 ∨ x.zeroPos.any (fun i => decide ((i : Int) ≥ x.frameBits)) then some 4
  else if realLess Config.namedReals x.gain (.rat 0) then some 5
  else none

/-- Latching the straps (70 R185 step 1). Exact on straps that passed the checks: all their integers are positive. -/
def latchStraps (x : Straps) : Cfg :=
  { complex := x.complex, floatOut := x.floatOut, gain := x.gain, d := x.d.toNat, nthresh := x.nthresh.toNat,
    t := x.t, phaseCount := x.phaseCount.toNat, waveCount := x.waveCount.toNat, sps := x.sps.toNat,
    phaseInc := x.phaseInc, frameBits := x.frameBits.toNat, syncWord0 := x.syncWord0, syncWord1 := x.syncWord1,
    zeroPos := x.zeroPos, cwBits := x.cwBits, paramW := x.paramW, externals := x.externals }

/-- `raise CfgError(code)` (60 R166, R170): `FAIL <- 1`, `ERRCODE <- code`, and all other state of the block
unspecified (10 R31), so drawn fresh from the free values. The ports are the host's and stay; the outputs of the
instance before are over. DEDUCED, safe, entries 9 and 14. -/
def raiseCfgError (code : BitVec 4) (s : State) : State :=
  { Config.unspecifiedState s.freeIx with
    fail := true, errCode := code,
    param := s.param, symIn := s.symIn, requests := s.requests, out := [], counts := [], freeIx := s.freeIx + 1 }

/-- Every piece of state to its reset value (70 R185 step 4, 10 R31), with the straps latched. BUILD (step 3) fills a
ROM that is a function of the straps, `waveformRom`. -/
def initialise (x : Straps) (s : State) : State :=
  { State.initial (latchStraps x) with
    param := s.param, symIn := s.symIn, requests := s.requests, freeIx := s.freeIx }

/-- Reset (70 R185). It is also the only way out of FAILED (60 R171). -/
def resetBlock (x : Straps) (s : State) : State :=
  match checkStraps x with
  | some code => raiseCfgError code s
  | none => initialise x s

/-! ### Taking a request (20 R50, 30 R61) -/

/-- The block takes the first request: the rest stay. -/
def takeRequest (rest : List Request) (s : State) : State := { s with requests := rest }

/-- The side operands of a command stand on their ports while it is performed. -/
def latchPorts (c : Command) (s : State) : State := { s with param := c.param, symIn := c.symIn }

end Sys2Proof.Machine
end

