-- ==== Sys2Proof/Machine/FrameAssembler.lean ====
section
/-! DEFINITION. FrameAssembler (file 43): the steps of APPCW, over any three external primitives, and the command. -/

namespace Sys2Proof.Machine

/-! ### The external primitives as whole functions (43 R141) -/

/-- `Encode(U)`, `CW_BITS` bits (43 R143). -/
def encodeParams (P : FramePrims) (c : Cfg) (u : Params) : List Bool :=
  (List.range c.cwBits).map (P.encodeBit u)

/-- `Interleave(F, cw, pos)`, `FRAME_BITS` elements (43 R144). -/
def interleave (P : FramePrims) (c : Cfg) (f cw : List Bool) (pos : Nat) : List Bool :=
  (List.range c.frameBits).map (P.interleaveBit f cw pos)

/-- `SetSync(F, hw)`, `FRAME_BITS` elements (43 R145). -/
def setSync (P : FramePrims) (c : Cfg) (f : List Bool) (hw : BitVec 64) : List Bool :=
  (List.range c.frameBits).map (P.setSyncBit f hw)

/-! ### The ninth codeword -/

/-- `SYNC_WORD[UNIT mod 2]` (43 R145). -/
def headerWord (c : Cfg) (unit : Nat) : BitVec 64 := if unit % 2 = 0 then c.syncWord0 else c.syncWord1

/-- `FrameSet(i, 0)` for each position listed (43 R146). -/
def zeroPositions : List Nat → List Bool → Except Refusal (List Bool)
  | [], f => .ok f
  | i :: rest, f =>
    match frameSet f i false with
    | .ok f' => zeroPositions rest f'
    | .error e => .error e

/-- The dibits `j, j + 1, ..., j + n - 1` of a frame: dibit `j` is `FrameBit(2j) ++ FrameBit(2j+1)` (43 R147). -/
def frameDibits (f : List Bool) : Nat → Nat → Except Refusal (List Dibit)
  | _, 0 => .ok []
  | j, n + 1 =>
    match frameBit f (2 * j), frameBit f (2 * j + 1) with
    | .ok hi, .ok lo =>
      match frameDibits f (j + 1) n with
      | .ok ds => .ok (dibitOf hi lo :: ds)
      | .error e => .error e
    | .error e, _ => .error e
    | _, .error e => .error e

/-- The unit a full frame becomes: header, then zeroing, then the conversion to `FRAME_BITS / 2` dibits
(43 R145 to R147); where they overlap the later write wins. -/
def unitDibits (P : FramePrims) (c : Cfg) (unit : Nat) (f : List Bool) : Except Refusal (List Dibit) :=
  match zeroPositions c.zeroPos (setSync P c f (headerWord c unit)) with
  | .ok g => frameDibits g 0 (c.frameBits / 2)
  | .error e => .error e

/-- The codeword written and counted, before the ninth (43 R144). -/
def storeCodeword (f : List Bool) (s : State) : State :=
  { s with frame := f, cwCount := s.cwCount + 1 }

/-- The unit appended to the queue, the counters stepped and the frame cleared (43 R148, R149). -/
def finishUnit (ds : List Dibit) (s : State) : State :=
  { qPushAll ds s with cwCount := 0, unit := s.unit + 1, frame := frameClear s.cfg }

/-- `APPCW(U)` (43 R142), for external primitives `P`. A position above 8 is outside the domain of `Interleave` (00 R8)
and refused; no run reaches it. DEDUCED, safe, entry 12. -/
def appendCodeword (P : FramePrims) (u : Params) (s : State) : Except Refusal State :=
  if s.cwCount.toNat ≥ Config.cwPerUnit then .error .codewordPositionOutOfRange
  else
    let f := interleave P s.cfg s.frame (encodeParams P s.cfg u) s.cwCount.toNat
    if s.cwCount.toNat + 1 = Config.cwPerUnit then
      match unitDibits P s.cfg s.unit f with
      | .ok ds => .ok (finishUnit ds (storeCodeword f s))
      | .error e => .error e
    else .ok (storeCodeword f s)

/-- `APPCW` with its operand read from `PARAM`, for external primitives `P`. -/
def appcwWith (P : FramePrims) (s : State) : Except Refusal State :=
  match paramOperand s with
  | .ok u => appendCodeword P u s
  | .error e => .error e

/-- APPCW (43 R142), with the primitives that came with the reset, which are free (entry 7). -/
def execAppcw (s : State) : Host.Outcome State Fault Refusal :=
  unlessFailed s (appcwWith (Config.framePrims s.cfg.externals) s)

end Sys2Proof.Machine
end

