-- ==== Sys2Proof/Machine/Sequencer.lean ====
section
/-! DEFINITION. SymbolSequencer (file 41): the symbol boundary, the tick of each variant, and the commands PUSHD,
PRODUCE and MUTE. -/

namespace Sys2Proof.Machine

/-! ### The symbol boundary -/

/-- `BoundaryC(d)` (41 R93): the new `SR` and the old `PHASE` select the entry, then the phase advances by the increment
of the dibit before (R95, R94, R96, in that order). -/
def boundaryC (d : Dibit) (s : State) : State :=
  { s with
    sr := shiftInDibit s.sr d
    actP := s.phase, actW := shiftInDibit s.sr d, actV := true
    phase := addPhase s.phase (phaseIncOf s.cfg s.prev)
    prev := d }

/-- `BoundaryR(d)` (41 R98). -/
def boundaryR (d : Dibit) (s : State) : State :=
  { s with sr8 := shiftInDibit s.sr8 d, actW8 := shiftInDibit s.sr8 d, actV := true }

/-! ### The tick -/

/-- The end of a tick that read the ROM: `CURSOR <- CURSOR + D`, wrapped by one subtraction of `SPS`, which ends the
active waveform (41 R97, R107 c). -/
def advanceCursor (s : State) : State :=
  if s.cursor + s.cfg.d ≥ s.cfg.sps then
    clearActive { s with cursor := s.cursor + s.cfg.d - s.cfg.sps }
  else { s with cursor := s.cursor + s.cfg.d }

/-- The last lines of `TickC`: emit the ROM sample and advance. -/
def emitRomC (s : State) : Except Refusal (Sample × State) :=
  match romRead s.cfg s.actP s.actW s.cursor with
  | .ok x => .ok (x, advanceCursor s)
  | .error e => .error e

/-- The last lines of `TickR`. -/
def emitRomR (s : State) : Except Refusal (Sample × State) :=
  match romReadR s.cfg s.actW8 s.cursor with
  | .ok x => .ok (x, advanceCursor s)
  | .error e => .error e

/-- `TickC` (41 R97): MUTED, underrun (R99), a boundary followed at once by its first sample, or the next sample. -/
def tickC (s : State) : Except Refusal (Sample × State) :=
  if s.mute then .ok (.zeroC, qFlush s)
  else if s.actV then emitRomC s
  else
    match qPop s with
    | none => .ok (.zeroC, s)
    | some (d, s') => emitRomC (boundaryC d s')

/-- `TickR` (41 R98). -/
def tickR (s : State) : Except Refusal (Sample × State) :=
  if s.mute then .ok (.zeroR, qFlush s)
  else if s.actV then emitRomR s
  else
    match qPop s with
    | none => .ok (.zeroR, s)
    | some (d, s') => emitRomR (boundaryR d s')

/-- The tick of the variant `CFG.COMPLEX` selects (41 R91). -/
def tick (s : State) : Except Refusal (Sample × State) :=
  if s.cfg.complex then tickC s else tickR s

/-- `n` ticks, one after another, with their samples in order (41 R100, R116). -/
def ticks : Nat → State → Except Refusal (List Sample × State)
  | 0, s => .ok ([], s)
  | n + 1, s =>
    match tick s with
    | .error e => .error e
    | .ok (x, s') =>
      match ticks n s' with
      | .error e => .error e
      | .ok (xs, t) => .ok (x :: xs, t)

/-- "on each request" a muted sequencer drops the queue, also when the request is for nothing (41 R100, D26). -/
def flushIfMuted (s : State) : State := if s.mute then qFlush s else s

/-- `PRODUCE(n)` on the state alone (41 R100). -/
def produceSamples (n : Nat) (s : State) : Except Refusal State :=
  match ticks n (flushIfMuted s) with
  | .ok (xs, t) => .ok (emitSamples n xs t)
  | .error e => .error e

/-! ### The commands -/

/-- PUSHD `d` (41 R92). -/
def execPushd (d : BitVec 2) (s : State) : Host.Outcome State Fault Refusal :=
  unlessFailed s (.ok (qPush (dibitOperand d) s))

/-- PRODUCE `n` (41 R100). -/
def execProduce (n : BitVec 12) (s : State) : Host.Outcome State Fault Refusal :=
  unlessFailed s (produceSamples (countOperand n) s)

/-- `MUTE(m)` (41 R104): asserting flushes at once (D14), clearing does not flush. -/
def muteControl (m : Bool) (s : State) : State :=
  if m then qFlush (setMute true s) else setMute false s

/-- MUTE `m` (41 R104). -/
def execMute (m : BitVec 1) (s : State) : Host.Outcome State Fault Refusal :=
  unlessFailed s (.ok (muteControl (muteOperand m) s))

end Sys2Proof.Machine
end

