-- ==== Sys2Proof/Machine/Slicer.lean ====
section
/-! DEFINITION. Slicer (file 44): the threshold quantiser, over any ordered number domain, and CLASSIFY. -/

namespace Sys2Proof.Machine

/-- `lo <= s < hi`, closed below and open above (44 R156 a), in an order given by its `<`. -/
def inBand {α : Type} (less : α → α → Bool) (lo hi s : α) : Bool := !less s lo && less s hi

/-- `CLASSIFY(s)` (44 R156): the polarity branch, then the two overrides that win over it. The six comparisons are all
it asks of its numbers, so the order and its zero are arguments. -/
def slice {α : Type} (less : α → α → Bool) (zero : α) (t : Quad α) (s : α) : Dibit :=
  let polarity : Dibit :=
    if less t.x3 zero then (if inBand less t.x3 t.x0 s then 3 else 1)
    else (if inBand less t.x2 t.x3 s then 1 else 3)
  let low : Dibit := if inBand less t.x0 t.x1 s then 2 else polarity
  if inBand less t.x1 t.x2 s then 0 else low

/-- `CLASSIFY(s)` on the real numbers of the block (44 R162). -/
def sliceReal (N : NamedReals) (t : Quad RealNum) (s : RealNum) : Dibit := slice (realLess N) (.rat 0) t s

/-- CLASSIFY (44 R156): reads `CFG.T` and `SYM_IN`, writes nothing but the output. -/
def execClassify (s : State) : Host.Outcome State Fault Refusal :=
  unlessFailed s (.ok (emitDibit (sliceReal Config.namedReals s.cfg.t (sampleOperand s)) s))

end Sys2Proof.Machine
end

