-- ==== Sys2Proof/Machine/Dispatch.lean ====
section
/-! DEFINITION. The dispatch of a command to its meaning, one arm per constructor. -/

namespace Sys2Proof.Machine

def exec (i : Instr) (s : State) : Host.Outcome State Fault Refusal :=
  match i with
  | .pushd d => Sys2Proof.Machine.execPushd d s
  | .appcw => Sys2Proof.Machine.execAppcw s
  | .produce n => Sys2Proof.Machine.execProduce n s
  | .mute m => Sys2Proof.Machine.execMute m s
  | .classify => Sys2Proof.Machine.execClassify s

end Sys2Proof.Machine
end

