-- ==== Sys2Proof/Machine/Step.lean ====
section
/-! DEFINITION. One step: the block takes the host's first request and performs it completely (20 R50). -/

namespace Sys2Proof.Machine

/-- A command word performed: decoded, and run with its side operands on their ports. A reserved word is refused
(30 R70). -/
def performCommand (c : Command) (s : State) : Host.Outcome State Fault Refusal :=
  match decode c.word with
  | .ok i => exec i (latchPorts c s)
  | .error why => .refused (.reservedWord why)

/-- One step. Without a request no state changes (00 section 6, 60 R172). DEDUCED, safe, entry 1. -/
def step (s : State) : Host.Outcome State Fault Refusal :=
  match s.requests with
  | [] => .next s
  | .reset x :: rest => .next (resetBlock x (takeRequest rest s))
  | .command c :: rest => performCommand c (takeRequest rest s)

/-- `s` with a command put before the requests that wait, its side operands those now on the ports: there is no program
memory (10 R12), and a program is the list of commands the host issues (70 R200). DESIGN CHOICE, safe, entry 2. -/
def State.withFetchWord (s : State) (nbits w : Nat) : State :=
  { s with requests := .command ⟨BitVec.ofNat 16 (w % 2 ^ nbits), s.param, s.symIn⟩ :: s.requests }

end Sys2Proof.Machine
end

