-- ==== Sys2Proof/Machine/Assembler.lean ====
section
/-! DEFINITION. The assembly notation of the spec's vectors and programs (30 R74, R75), over abstract lines: the
commands a line stands for. The text form (spaces, commas, `#`) is notation only and is not modelled. -/

namespace Sys2Proof.Machine

/-- A command with no side operand. What its side ports carry is not read; zeros. DESIGN CHOICE, unsafe, entry 15. -/
def plainCommand (i : Instr) : Command := ⟨encode i, ⟨0, 0, 0, 0, 0, 0, 0, 0⟩, .rat 0⟩

/-- `pushd d` (30 R74). -/
def pushdLine (d : Nat) : Command := plainCommand (.pushd (BitVec.ofNat 2 d))

/-- The commands of a line whose operands are in range (30 R74, R75). The spec uses `.word` for a reserved word only (95 P6)
and gives it no side operand: here zeros stand on both ports, also when the word is APPCW's or CLASSIFY's, which reads one.
DESIGN CHOICE, unsafe, entry 21. -/
def expandLine (c : Cfg) : AsmLine → List Command
  | .pushd d => [pushdLine d]
  | .appcw u => [{ plainCommand .appcw with param := u }]
  | .produce n => [plainCommand (.produce (BitVec.ofNat 12 n))]
  | .mute m => [plainCommand (.mute (BitVec.ofNat 1 m))]
  | .classify s => [{ plainCommand .classify with symIn := .rat s }]
  | .tick => [plainCommand (.produce 1)]
  | .unmute => [plainCommand (.mute 0)]
  | .pushds ds => ds.map pushdLine
  | .symbols k => [plainCommand (.produce (BitVec.ofNat 12 (symbolsCount c k)))]
  | .word w => [{ plainCommand .appcw with word := BitVec.ofNat 16 w }]

/-- Assembling a line: nothing when an operand is out of range, "it has no encoding" (30 R74). -/
def assembleLine (c : Cfg) (l : AsmLine) : Option (List Command) :=
  if l.wf c then some (expandLine c l) else none

/-- A program is a finite list of commands (70 R200): its lines in order, as requests of the host. -/
def assemble (c : Cfg) : List AsmLine → Option (List Request)
  | [] => some []
  | l :: rest =>
    match assembleLine c l, assemble c rest with
    | some cs, some rs => some (cs.map .command ++ rs)
    | _, _ => none

end Sys2Proof.Machine
end

