-- ==== Sys2Proof/Machine/DatagramSource.lean ====
section
/-! DEFINITION. The host agent's DatagramSource (file 42): the datagram wire format, the drain loop with its gap
detection and key-up state, and the requests it makes of the block. It is software beside the block: no step of the
machine reads anything defined here (42 section 1). Entry 17. -/

namespace Sys2Proof.Machine

/-- The host-side options and parameters (00 R9, 42 R121, R128). -/
structure SourceConfig where
  /-- `listenPort`; 0 disables network ingestion (42 R130). -/
  listenPort : Nat
  useCompressedVoice : Bool
  /-- A `notificationSink` was given (42 R126). -/
  hasSink : Bool
  /-- `PAYLOAD_SAMPLES`. -/
  payloadSamples : Nat
  /-- `HOLD`, in the unit of the wall clock. -/
  hold : Nat
deriving DecidableEq, Repr

/-- A line of the host's log; the text is not given, so its occasion stands for it. -/
inductive LogLine where
  /-- A datagram of a wrong length (42 R125). -/
  | badLength (length : Nat)
  /-- A sequence gap (42 R127). -/
  | gap (expected observed : BitVec 32)
  /-- A change of KeyUpState (42 R123, R126). -/
  | keyUpChange (now : Bool)
  /-- The key-up timeout, observed (42 R123). -/
  | keyUpTimeout
  /-- A socket-level error (42 R130). -/
  | socketError (code : Nat)
deriving DecidableEq, Repr

/-- The state of DatagramSource (42 R122, R123) with what it has produced: the raw-audio queue (R129), the log and the
notifications, each oldest first. -/
structure SourceState where
  lastReceived : BitVec 32
  expected : BitVec 32
  keyUp : Bool
  expiry : Nat
  /-- The timeout of the present key-up has been observed and logged (42 R123). DESIGN CHOICE, unsafe, entry 22. -/
  timedOut : Bool
  rawAudio : List Int
  log : List LogLine
  notifications : List Bool
  /-- The socket error logged last, to suppress an identical one (42 R130). -/
  lastSocketError : Option Nat
deriving DecidableEq, Repr

/-- The first state: `expected = 0` (42 R122). The rest is not given: nothing received, not keyed, nothing logged.
DESIGN CHOICE, unsafe, entry 17. -/
def SourceState.start : SourceState :=
  { lastReceived := 0, expected := 0, keyUp := false, expiry := 0, timedOut := false, rawAudio := [],
    log := [], notifications := [], lastSocketError := none }

/-- What one read of the socket gives; when nothing is available the list of reads ends (42 R124). A datagram comes with
the wall-clock time at which it is processed, the `now` of 42 R128; the times of one invocation may differ. -/
inductive SocketRead where
  | datagram (now : Nat) (bytes : List (BitVec 8))
  | error (code : Nat)
deriving DecidableEq, Repr

/-- A datagram taken apart (42 R121). -/
structure Datagram where
  keyUpWord : BitVec 32
  sequence : BitVec 32
  /-- The audio samples, when there is a payload. -/
  payload : Option (List Int)
deriving DecidableEq, Repr

/-- Audio samples, "signed 16-bit little-endian" (42 R121). -/
def leSamples : List (BitVec 8) → List Int
  | lo :: hi :: rest => (hi ++ lo : BitVec 16).toInt :: leSamples rest
  | _ => []

/-- The length check and the header, "big-endian on the wire" (42 R121, R125): the header alone, or the header and the
whole payload; any other length gives nothing. -/
def parseDatagram (cfg : SourceConfig) : List (BitVec 8) → Option Datagram
  | k0 :: k1 :: k2 :: k3 :: q0 :: q1 :: q2 :: q3 :: body =>
    if body.length = 2 * cfg.payloadSamples then
      some ⟨(k0 ++ k1 ++ k2 ++ k3 : BitVec 32), (q0 ++ q1 ++ q2 ++ q3 : BitVec 32), some (leSamples body)⟩
    else if body = [] then
      some ⟨(k0 ++ k1 ++ k2 ++ k3 : BitVec 32), (q0 ++ q1 ++ q2 ++ q3 : BitVec 32), none⟩
    else none
  | _ => none

/-- The key-up flag is asserted when its word is not zero (42 R126, D30). -/
def keyUpFlag (d : Datagram) : Bool := decide (d.keyUpWord ≠ 0)

/-- The key-up transition, recorded and notified when the flag changes (42 R126). What a notification carries is not
stated (91, file 42): here the new flag alone. DESIGN CHOICE, unsafe, entry 23. -/
def noteKeyUp (cfg : SourceConfig) (flag : Bool) (h : SourceState) : SourceState :=
  if flag = h.keyUp then h
  else
    { h with
      keyUp := flag, log := h.log ++ [.keyUpChange flag]
      notifications := if cfg.hasSink then h.notifications ++ [flag] else h.notifications }

/-- A gap: mismatched and both values non-zero (42 R127). -/
def isGap (expected observed : BitVec 32) : Bool :=
  decide (observed ≠ expected) && decide (observed ≠ 0) && decide (expected ≠ 0)

/-- Gap detection, then the update of the tracker (42 R122, R127): the next expected number is the observed one plus
one, wrapping at 32 bits. -/
def noteSequence (observed : BitVec 32) (h : SourceState) : SourceState :=
  { h with
    lastReceived := observed, expected := observed + 1
    log := if isGap h.expected observed then h.log ++ [.gap h.expected observed] else h.log }

/-- The hold timer: refreshed on every key-up-asserted datagram (42 R128), which also begins a timeout not yet observed. -/
def refreshHold (cfg : SourceConfig) (now : Nat) (flag : Bool) (h : SourceState) : SourceState :=
  if flag then { h with expiry := now + cfg.hold, timedOut := false } else h

/-- The hold timer evaluated "by wall-clock comparison" (42 R128): keyed up, and the expiry reached. This is the implicit
timeout a downstream consumer can ask for (42 R123). Whether the expiry itself counts as reached is not stated; here it
does. DESIGN CHOICE, unsafe, entry 22. -/
def keyUpExpired (now : Nat) (h : SourceState) : Bool := h.keyUp && decide (h.expiry ≤ now)

/-- The timeout observed: "only logged as a state transition" (42 R123), once for a key-up, and nothing enforced: the flag
stays and the block is told nothing (42 R133). DESIGN CHOICE, unsafe, entry 22. -/
def observeTimeout (now : Nat) (h : SourceState) : SourceState :=
  if keyUpExpired now h && !h.timedOut then { h with timedOut := true, log := h.log ++ [.keyUpTimeout] } else h

/-- Payload dispatch (42 R129): to the vocoder and one APPCW, or to the raw-audio queue. The spec gives the vocoder's
interface, `encode(audioSamples) -> 8 parameters`, and not whether it has a memory from frame to frame: here it has none,
a function of one datagram's samples. DESIGN CHOICE, unsafe, entry 24. What stands on `SYM_IN` beside the APPCW, which does
not read it, is not stated: here 0. DESIGN CHOICE, unsafe, entry 15. -/
def dispatchPayload (cfg : SourceConfig) (vocoder : List Int → Params) (payload : Option (List Int)) (h : SourceState) :
    SourceState × List Request :=
  match payload with
  | none => (h, [])
  | some samples =>
    if cfg.useCompressedVoice then (h, [.command ⟨encode .appcw, vocoder samples, .rat 0⟩])
    else ({ h with rawAudio := h.rawAudio ++ samples }, [])

/-- One datagram at wall-clock time `now`, its steps in the order of 42 R125 to R129. -/
def receive (cfg : SourceConfig) (vocoder : List Int → Params) (now : Nat) (bytes : List (BitVec 8)) (h : SourceState) :
    SourceState × List Request :=
  match parseDatagram cfg bytes with
  | none => ({ h with log := h.log ++ [.badLength bytes.length] }, [])
  | some d =>
    dispatchPayload cfg vocoder d.payload
      (refreshHold cfg now (keyUpFlag d) (noteSequence d.sequence (noteKeyUp cfg (keyUpFlag d) h)))

/-- A socket error: logged once, an identical one after it not (42 R130). -/
def noteSocketError (code : Nat) (h : SourceState) : SourceState :=
  if h.lastSocketError = some code then h
  else { h with log := h.log ++ [.socketError code], lastSocketError := some code }

/-- The loop over what the socket gives: until nothing is left, or until an error stops this invocation (42 R124, R130). -/
def drainReads (cfg : SourceConfig) (vocoder : List Int → Params) :
    List SocketRead → SourceState → SourceState × List Request
  | [], h => (h, [])
  | .error code :: _, h => (noteSocketError code h, [])
  | .datagram now bytes :: rest, h =>
    let r := receive cfg vocoder now bytes h
    let q := drainReads cfg vocoder rest r.1
    (q.1, r.2 ++ q.2)

/-- `drain()` (42 R124), begun at wall-clock time `now`: the hold timer is looked at once, first (entry 22), then the socket
is read; with `listenPort = 0` there is no ingestion (42 R130). -/
def drain (cfg : SourceConfig) (vocoder : List Int → Params) (now : Nat) (reads : List SocketRead) (h : SourceState) :
    SourceState × List Request :=
  if cfg.listenPort = 0 then (observeTimeout now h, []) else drainReads cfg vocoder reads (observeTimeout now h)

/-- One cycle of the host (42 R131): drain, then one PRODUCE of the scheduler's request. What stands on `PARAM` and
`SYM_IN` beside it, which it does not read, is not stated: here zeros. DESIGN CHOICE, unsafe, entry 15. -/
def hostCycle (cfg : SourceConfig) (vocoder : List Int → Params) (now : Nat) (reads : List SocketRead) (n : BitVec 12)
    (h : SourceState) : SourceState × List Request :=
  let r := drain cfg vocoder now reads h
  (r.1, r.2 ++ [.command ⟨encode (.produce n), ⟨0, 0, 0, 0, 0, 0, 0, 0⟩, .rat 0⟩])

end Sys2Proof.Machine
end

