-- ==== Sys2Proof/Machine/WaveformTable.lean ====
section
/-! DEFINITION. WaveformTable (file 40): BUILD over the reals, the ROM it leaves, and the value of an emitted sample.
Nothing here is read by a step: a step names samples by their ROM indices (40 R87), and `Sample.value` says what number
stands there. The real numbers make these definitions noncomputable; entry 6. -/

namespace Sys2Proof.Machine

/-- `Wrap8(v) = v - 8*j` for the integer `j` with `-4 <= v - 8*j < 4` (40 R81). -/
noncomputable def wrap8 (v : ℝ) : ℝ := v - 8 * (⌊(v + 4) / 8⌋ : ℝ)

/-- The shifted shape sample `BASE[w][k] + (REFPHASE[w] - p)`, in units of 45 degrees (40 R81). -/
noncomputable def shiftedShape (W : WaveTables) (p w k : Nat) : ℝ := W.base w k + ((W.refPhase w : ℝ) - (p : ℝ))

/-- One sample of BUILD (40 R81): `GAIN * (cos theta, sin theta)` with `theta = Wrap8(v) * pi / 4`. The readings of the
document's sentence are the spec's (D9). -/
noncomputable def buildSample (W : WaveTables) (gain : ℝ) (p w k : Nat) : ℝ × ℝ :=
  let theta := wrap8 (shiftedShape W p w k) * (Real.pi / 4)
  (gain * Real.cos theta, gain * Real.sin theta)

/-- `ROM_C[p][w][k]` of a block configured by `c` (40 R81, 20 R41). Its tables are `Config.waveTables c.externals`, its
reals `Config.namedReals`; the definitions hold for any. The spec builds no `ROM_C` when `COMPLEX = 0` (40 R81, R83) and no entry
at an offset above `SPS`: there it gives no contents, and here the formula's value stands; no step emits such an entry.
DESIGN CHOICE, unsafe, entry 6. -/
noncomputable def waveformRom (N : NamedReals) (W : WaveTables) (c : Cfg) (p : BitVec 3) (w : BitVec 6) (k : Nat) : ℝ × ℝ :=
  buildSample W (realValue N c.gain) p.toNat w.toNat k

/-- A sample's value: a complex pair or a real (30 R61). -/
inductive Level where
  | complex (re im : ℝ)
  | real (x : ℝ)

/-- The value on `OUT` of an emitted sample, copied from the ROM as stored (41 R113, R115); `ZERO` is `(0, 0)` or `0`
(00 section 7). -/
noncomputable def Sample.value (N : NamedReals) (W : WaveTables) (c : Cfg) : Sample → Level
  | .zeroC => .complex 0 0
  | .zeroR => .real 0
  | .romC p w k => .complex (waveformRom N W c p w k).1 (waveformRom N W c p w k).2
  | .romR w k => .real (W.romR w.toNat k)

end Sys2Proof.Machine
end

