-- ==== Sys2Proof/Safety.lean ====
section
/-! DEFINITION. The terms claims use: a legal configuration, a state at a command boundary after a successful reset, and
the invariants of 10 R30 and R29. -/

namespace Sys2Proof.Machine

/-- The configurations reset accepts (70 R186). -/
abbrev Legal (c : Cfg) : Prop :=
  c.phaseCount = 8 ∧ c.waveCount = 64 ∧ 1 ≤ c.sps ∧ c.nthresh = 4 ∧ 1 ≤ c.d ∧ c.d ≤ c.sps ∧
  c.frameBits % 2 = 0 ∧ 64 ≤ c.frameBits ∧ (∀ i ∈ c.zeroPos, i < c.frameBits) ∧
  realLess Config.namedReals c.gain (.rat 0) = false

/-- What 10 R30 says of a state at a command boundary, less what the types of its fields already say. -/
abbrev State.InRange (s : State) : Prop :=
  Legal s.cfg ∧ s.cursor < s.cfg.sps ∧ s.cwCount.toNat ≤ 8 ∧ s.frame.length = s.cfg.frameBits

/-- The invariant: outside FAILED the state is in range and `ERRCODE = 0`, and in FAILED `ERRCODE` is one of the five
codes (10 R26, R30, 60 R166). -/
abbrev State.Inv (s : State) : Prop :=
  (s.fail = false → s.InRange ∧ s.errCode = 0) ∧ (s.fail = true → 1 ≤ s.errCode.toNat ∧ s.errCode.toNat ≤ 5)

/-- The registers of the variant not selected are at their reset value (10 R29). -/
abbrev State.OneVariant (s : State) : Prop :=
  s.fail = false →
    (s.cfg.complex = true → s.sr8 = 0 ∧ s.actW8 = 0) ∧
    (s.cfg.complex = false → s.phase = 0 ∧ s.sr = 0 ∧ s.prev = 0 ∧ s.actP = 0 ∧ s.actW = 0)

/-- A request the block performs: a reset, or a command word that is not reserved, with the vector of an APPCW within
its widths (42 R132, 30 R65, R70). -/
def performable (c : Cfg) : Request → Bool
  | .reset _ => true
  | .command x =>
    match decode x.word with
    | .ok .appcw => Params.fits c.paramW x.param
    | .ok _ => true
    | .error _ => false

/-- A sample of the complex variant (30 R61). -/
def Sample.isComplex : Sample → Bool
  | .zeroC => true
  | .zeroR => false
  | .romC _ _ _ => true
  | .romR _ _ => false

/-- `ZERO` of the variant selected (00 section 7). -/
def zeroOf (c : Cfg) : Sample := if c.complex then .zeroC else .zeroR

/-- A `ZERO` sample. -/
def Sample.isZero : Sample → Bool
  | .zeroC => true
  | .zeroR => true
  | .romC _ _ _ => false
  | .romR _ _ => false

end Sys2Proof.Machine
end

