-- ==== Sys2Proof/Certificates/Slice0/Obligations.lean ====
section
/-! DEFINITION. The statements for the provers, in the order of OBLIGATIONS.json. -/

open Sys2Proof Sys2Proof.Machine

/-! ### Encoding and the step -/

/-- 30 R73 (encoding: spec decision D3). Decoding the word of a command gives the command back, for every operand. -/
def Obligations.DecodeOfEncodeIsIdentity : Prop := ∀ i : Instr, decode (encode i) = .ok i

/-- 30 R73 (D3). Each valid word has one meaning: encoding what it decodes to gives the word back. -/
def Obligations.EncodeOfDecodeIsIdentity : Prop :=
  ∀ (c : CommandWord) (i : Instr), decode c = .ok i → encode i = c

/-- 30 R70 (D4). The words the decoder turns away are exactly the reserved ones, written as ranges, and the machine
takes no step on one. -/
def Obligations.ReservedWordsAreRefused : Prop :=
  (∀ c : CommandWord, (∃ why, decode c = .error why) ↔
    (c.toNat < 0x1000 ∨ 0x6000 ≤ c.toNat ∨ (0x1004 ≤ c.toNat ∧ c.toNat < 0x2000) ∨
      (0x2001 ≤ c.toNat ∧ c.toNat < 0x3000) ∨ (0x4002 ≤ c.toNat ∧ c.toNat < 0x5000) ∨
      (0x5001 ≤ c.toNat ∧ c.toNat < 0x6000))) ∧
  ∀ (s : State) (c : Command) (rest : List Request) (why : DecodeError),
    s.requests = .command c :: rest → decode c.word = .error why → step s = .refused (.reservedWord why)

/-- Vectors V1 to V7 of 95 section 3.1. -/
def Obligations.SpecVectorsDecode : Prop :=
  decode 0x1000 = .ok (.pushd 0) ∧ decode 0x1003 = .ok (.pushd 3) ∧ decode 0x1004 = .error .mustBeZero ∧
  decode 0x2000 = .ok .appcw ∧ decode 0x2FFF = .error .mustBeZero ∧ decode 0x300C = .ok (.produce 12) ∧
  decode 0x3FFF = .ok (.produce 4095) ∧ decode 0x4001 = .ok (.mute 1) ∧ decode 0x4002 = .error .mustBeZero ∧
  decode 0x5000 = .ok .classify ∧ decode 0x5001 = .error .mustBeZero ∧ decode 0x0000 = .error .reservedOp ∧
  decode 0x7123 = .error .reservedOp

/-- 20 R50, 30 R61. A step performs the host's first request: a word that decodes runs as its command, with its side
operands on the ports and the request gone; with no request nothing changes (log entry 1). A word placed by
`withFetchWord` is run by the very next step, from the state it was placed in (log entry 2). -/
def Obligations.StepRunsTheDecodedCommand : Prop :=
  (∀ (s : State) (c : Command) (rest : List Request) (i : Instr),
    s.requests = .command c :: rest → decode c.word = .ok i →
      step s = exec i { s with requests := rest, param := c.param, symIn := c.symIn }) ∧
  (∀ s : State, s.requests = [] → step s = .next s) ∧
  ∀ (s : State) (w : Nat) (i : Instr), w < 2 ^ 16 → decode (BitVec.ofNat 16 w) = .ok i →
    step (s.withFetchWord 16 w) = exec i s ∧ decodeTableWord 16 w = some i

/-! ### Reset, the configuration error and FAILED -/

/-- 70 R185, 10 R31 (reset values: spec decisions D7, D20, D21). A reset whose straps pass every check, from any state. -/
def Obligations.GoodResetInitialisesEverything : Prop :=
  ∀ (s : State) (x : Straps) (rest : List Request), s.requests = .reset x :: rest →
    x.phaseCount = 8 → x.waveCount = 64 → 1 ≤ x.sps → x.nthresh = 4 → 1 ≤ x.d → x.d ≤ x.sps → x.frameBits % 2 = 0 →
    64 ≤ x.frameBits → (∀ i ∈ x.zeroPos, (i : Int) < x.frameBits) → 0 ≤ realValue Config.namedReals x.gain →
    ∃ t, step s = .next t ∧
      t.phase = 0 ∧ t.sr = 0 ∧ t.sr8 = 0 ∧ t.prev = 0 ∧ t.cursor = 0 ∧ t.actV = false ∧ t.actP = 0 ∧ t.actW = 0 ∧
      t.actW8 = 0 ∧ t.mute = false ∧ t.queue = [] ∧ t.frame = List.replicate x.frameBits.toNat false ∧
      t.cwCount = 0 ∧ t.unit = 0 ∧ t.fail = false ∧ t.errCode = 0 ∧ t.mode = .idle ∧
      (t.cfg.sps : Int) = x.sps ∧ (t.cfg.d : Int) = x.d ∧ (t.cfg.frameBits : Int) = x.frameBits ∧
      t.cfg.complex = x.complex ∧ t.cfg.gain = x.gain ∧ t.cfg.t = x.t ∧ t.cfg.phaseInc = x.phaseInc ∧
      t.cfg.zeroPos = x.zeroPos ∧ t.cfg.syncWord0 = x.syncWord0 ∧ t.cfg.syncWord1 = x.syncWord1 ∧
      t.cfg.cwBits = x.cwBits ∧ t.cfg.paramW = x.paramW ∧ t.cfg.floatOut = x.floatOut ∧
      t.cfg.externals = x.externals ∧ t.cfg.phaseCount = 8 ∧
      t.cfg.waveCount = 64 ∧ t.cfg.nthresh = 4 ∧ t.requests = rest

/-- 60 R166, R169, 70 R186 (codes and order: spec decision D23). The checks are made in ascending order of code and the
lowest failing code is reported, whatever the state before. -/
def Obligations.ResetReportsTheLowestFailingCode : Prop :=
  ∀ (s : State) (x : Straps) (rest : List Request), s.requests = .reset x :: rest →
    let bad1 := x.phaseCount ≠ 8 ∨ x.waveCount ≠ 64 ∨ x.sps < 1
    let bad2 := x.nthresh ≠ 4
    let bad3 := x.d < 1 ∨ x.sps < x.d
    let bad4 := x.frameBits % 2 ≠ 0 ∨ x.frameBits < 64 ∨ ∃ i ∈ x.zeroPos, x.frameBits ≤ (i : Int)
    let bad5 := realValue Config.namedReals x.gain < 0
    ∃ t, step s = .next t ∧ t.requests = rest ∧
      (bad1 → t.fail = true ∧ t.errCode = 1) ∧
      (¬ bad1 → bad2 → t.fail = true ∧ t.errCode = 2) ∧
      (¬ bad1 → ¬ bad2 → bad3 → t.fail = true ∧ t.errCode = 3) ∧
      (¬ bad1 → ¬ bad2 → ¬ bad3 → bad4 → t.fail = true ∧ t.errCode = 4) ∧
      (¬ bad1 → ¬ bad2 → ¬ bad3 → ¬ bad4 → bad5 → t.fail = true ∧ t.errCode = 5) ∧
      (¬ bad1 → ¬ bad2 → ¬ bad3 → ¬ bad4 → ¬ bad5 → t.fail = false ∧ t.errCode = 0)

/-- 60 R170 (spec decision D23). In FAILED every command is refused. -/
def Obligations.FailedBlockRefusesEveryCommand : Prop :=
  ∀ (i : Instr) (s : State), s.fail = true → exec i s = .refused .blockFailed

/-- 60 R171 (spec decision D23). The only way out of FAILED is a new reset whose straps pass every check. -/
def Obligations.OnlyAGoodResetLeavesFailed : Prop :=
  ∀ s t : State, s.fail = true → step s = .next t → t.fail = false →
    ∃ (x : Straps) (rest : List Request), s.requests = .reset x :: rest ∧
      (x.phaseCount = 8 ∧ x.waveCount = 64 ∧ 1 ≤ x.sps) ∧ x.nthresh = 4 ∧ (1 ≤ x.d ∧ x.d ≤ x.sps) ∧
      (x.frameBits % 2 = 0 ∧ 64 ≤ x.frameBits ∧ ∀ i ∈ x.zeroPos, (i : Int) < x.frameBits) ∧
      0 ≤ realValue Config.namedReals x.gain

/-! ### Invariants and whole-machine rules -/

/-- 10 R30. What it says of a state at a command boundary is kept by every step: from a state in which it holds, a
command, a reset or no request leads to a state in which it holds. -/
def Obligations.StepKeepsTheInvariant : Prop := ∀ s t : State, s.Inv → step s = .next t → t.Inv

/-- 10 R29. The registers of the variant not selected stay at their reset value, through every step. -/
def Obligations.StepKeepsTheOtherVariantUntouched : Prop :=
  ∀ s t : State, s.OneVariant → step s = .next t → t.OneVariant

/-- 10 R29. No rule of the selected variant reads the registers of the other: changing them changes nothing else. -/
def Obligations.OtherVariantIsNeverRead : Prop :=
  (∀ (i : Instr) (s t : State) (a b : BitVec 8), s.cfg.complex = true → exec i s = .next t →
    exec i { s with sr8 := a, actW8 := b } = .next { t with sr8 := a, actW8 := b }) ∧
  ∀ (i : Instr) (s t : State) (p q : BitVec 3) (a b : BitVec 6) (d : Dibit), s.cfg.complex = false →
    exec i s = .next t →
    exec i { s with phase := p, actP := q, sr := a, actW := b, prev := d } =
      .next { t with phase := p, actP := q, sr := a, actW := b, prev := d }

/-- 10 R31, R30. The reset state is in range and at the values of R31: every register 0, `QUEUE` empty, `FRAME` all zeros,
mode IDLE (reset values: spec decisions D7, D20, D21; straps of the reset state: the model's choice, log entry 3). -/
def Obligations.ResetStateMeetsTheInvariants : Prop :=
  State.reset.Inv ∧ State.reset.OneVariant ∧ State.reset.fail = false ∧ State.reset.errCode = 0 ∧
  State.reset.phase = 0 ∧ State.reset.sr = 0 ∧ State.reset.sr8 = 0 ∧ State.reset.prev = 0 ∧ State.reset.cursor = 0 ∧
  State.reset.actV = false ∧ State.reset.actP = 0 ∧ State.reset.actW = 0 ∧ State.reset.actW8 = 0 ∧
  State.reset.mute = false ∧ State.reset.queue = [] ∧
  State.reset.frame = List.replicate State.reset.cfg.frameBits false ∧ State.reset.cwCount = 0 ∧
  State.reset.unit = 0 ∧ State.reset.mode = .idle ∧ State.reset.cfg = Config.resetCfg

/-- 60 R167 for the commands; for a reset, that one whose checks fail is a next state too: 60 R166 (spec decision D23), as log
entries 16 and 20 read it. In a state in range, outside FAILED, every request the host may make is performed: a step answers
a next state, and a command leaves FAIL and ERRCODE as they were. -/
def Obligations.NoCommandFailsAtRunTime : Prop :=
  ∀ (s : State) (r : Request) (rest : List Request), s.Inv → s.fail = false → s.requests = r :: rest →
    performable s.cfg r = true →
    ∃ t, step s = .next t ∧ t.requests = rest ∧ ((∃ c, r = .command c) → t.fail = false ∧ t.errCode = s.errCode)

/-- 10 R32. Which command writes which state: the sequencer's registers change under PRODUCE only, MUTE under MUTE only,
the assembler's state under APPCW only, the configuration and the reset outcome under none, and under CLASSIFY the queue
stays too. -/
def Obligations.CommandsWriteOnlyTheirOwnState : Prop :=
  ∀ (i : Instr) (s t : State), exec i s = .next t →
    ((∀ n, i ≠ .produce n) →
      t.phase = s.phase ∧ t.sr = s.sr ∧ t.sr8 = s.sr8 ∧ t.prev = s.prev ∧ t.cursor = s.cursor ∧ t.actV = s.actV ∧
      t.actP = s.actP ∧ t.actW = s.actW ∧ t.actW8 = s.actW8 ∧ t.counts = s.counts) ∧
    ((∀ m, i ≠ .mute m) → t.mute = s.mute) ∧
    (i ≠ .appcw → t.frame = s.frame ∧ t.cwCount = s.cwCount ∧ t.unit = s.unit) ∧
    (i = .classify → t.queue = s.queue) ∧
    ((∀ n, i ≠ .produce n) → i ≠ .classify → t.out = s.out) ∧
    t.cfg = s.cfg ∧ t.fail = s.fail ∧ t.errCode = s.errCode ∧ t.param = s.param ∧ t.symIn = s.symIn ∧
    t.requests = s.requests ∧ t.freeIx = s.freeIx

/-- 00 R9 (spec decision D18). `CFG.FLOAT_OUT` is read by no rule: changing it changes nothing else. -/
def Obligations.FloatOutIsNeverRead : Prop :=
  ∀ (i : Instr) (s t : State) (b : Bool), exec i s = .next t →
    exec i { s with cfg := { s.cfg with floatOut := b } } = .next { t with cfg := { t.cfg with floatOut := b } }

/-- 41 R106. The transition table of the state machine, all rows. -/
def Obligations.ModeFollowsTheTransitionTable : Prop :=
  ∀ s : State, s.fail = false → s.cursor ≤ s.cfg.sps →
    (∃ t, exec (.produce 1) s = .next t ∧
      (s.mode = .idle → s.queue = [] → t.mode = .idle) ∧
      (s.mode = .idle → s.queue ≠ [] → s.cursor + s.cfg.d < s.cfg.sps → t.mode = .emitting) ∧
      (s.mode = .idle → s.queue ≠ [] → s.cfg.sps ≤ s.cursor + s.cfg.d → t.mode = .idle) ∧
      (s.mode = .emitting → s.cursor + s.cfg.d < s.cfg.sps → t.mode = .emitting) ∧
      (s.mode = .emitting → s.cfg.sps ≤ s.cursor + s.cfg.d → t.mode = .idle) ∧
      (s.mode = .muted → t.mode = .muted ∧ t.queue = [])) ∧
    (∃ t, exec (.mute 1) s = .next t ∧ t.mode = .muted ∧ t.queue = []) ∧
    (∃ t, exec (.mute 0) s = .next t ∧ t.queue = s.queue ∧
      (s.mode = .muted → t.mode = if s.actV then .emitting else .idle) ∧ (s.mode ≠ .muted → t.mode = s.mode)) ∧
    ∀ d, ∃ t, exec (.pushd d) s = .next t ∧ t.mode = s.mode

/-! ### PUSHD and MUTE -/

/-- 20 R43. `QPush` appends at the tail; `QPop` gives the head and removes it, and gives nothing exactly when the queue
is empty; `QFlush` empties. -/
def Obligations.QueuePrimitivesAreFifo : Prop :=
  ∀ (s : State) (d : Dibit),
    (qPush d s = { s with queue := s.queue ++ [d] }) ∧ (qFlush s = { s with queue := [] }) ∧
    (qPop s = none ↔ s.queue = []) ∧
    ∀ (h : Dibit) (rest : List Dibit), s.queue = h :: rest → qPop s = some (h, { s with queue := rest })

/-- 41 R92 (with MUTE = 1: spec decision D15; unbounded queue: D16). PUSHD appends one dibit in every state outside
FAILED and changes nothing else; its word is `0x1000 + d`. -/
def Obligations.PushdAppendsOneDibit : Prop :=
  ∀ (d : BitVec 2) (s : State), s.fail = false →
    exec (.pushd d) s = .next { s with queue := s.queue ++ [d] } ∧ (encode (.pushd d)).toNat = 0x1000 + d.toNat

/-- 41 R104, R105 (flush at assertion: spec decision D14; what mute keeps: D13). MUTE 1 sets the flag and empties the
queue, MUTE 0 clears the flag and flushes nothing, and neither changes anything else. -/
def Obligations.MuteSetsTheFlagAndFlushes : Prop :=
  ∀ s : State, s.fail = false →
    exec (.mute 1) s = .next { s with mute := true, queue := [] } ∧ exec (.mute 0) s = .next { s with mute := false }

/-- 41 R105, 70 R192 (spec decision D13). Muting, any number of muted samples, and unmuting lose the queue and keep the
phase, the history, the cursor and the active entry: a cut symbol resumes where it stopped. -/
def Obligations.MutedSpanKeepsTheDatapath : Prop :=
  ∀ (n : BitVec 12) (s t u v : State), exec (.mute 1) s = .next t → exec (.produce n) t = .next u →
    exec (.mute 0) u = .next v →
    v = { s with
      mute := false, queue := [], counts := s.counts ++ [n.toNat]
      out := s.out ++ List.replicate n.toNat (.sample (zeroOf s.cfg)) }

/-- 41 R112. In EMITTING a tick does not look at the queue: a dibit pushed during a symbol gives the same sample and the
same state as one pushed after it. -/
def Obligations.PushDuringASymbolWaits : Prop :=
  ∀ (d : BitVec 2) (s t u : State), s.mode = .emitting → exec (.pushd d) s = .next t → exec (.produce 1) t = .next u →
    ∃ v, exec (.produce 1) s = .next v ∧ exec (.pushd d) v = .next u

/-! ### The symbol boundary -/

/-- 41 R93, R94, R95, R96. The boundary: shift register, selection by the new register and the old phase, phase advance
by the increment of the dibit before, then `PREV`; nothing else is written. -/
def Obligations.BoundarySelectsThenAdvances : Prop :=
  ∀ (d : Dibit) (s : State),
    let t := boundaryC d s
    t.sr.toNat = ((s.sr.toNat <<< 2) ||| d.toNat) &&& 63 ∧
    t.actP = s.phase ∧ t.actW = t.sr ∧ t.actV = true ∧
    (s.prev = 0 → (t.phase.toNat : Int) = ((s.phase.toNat : Int) + s.cfg.phaseInc.x0) % 8) ∧
    (s.prev = 1 → (t.phase.toNat : Int) = ((s.phase.toNat : Int) + s.cfg.phaseInc.x1) % 8) ∧
    (s.prev = 2 → (t.phase.toNat : Int) = ((s.phase.toNat : Int) + s.cfg.phaseInc.x2) % 8) ∧
    (s.prev = 3 → (t.phase.toNat : Int) = ((s.phase.toNat : Int) + s.cfg.phaseInc.x3) % 8) ∧
    t.prev = d ∧
    t = { s with sr := t.sr, actP := t.actP, actW := t.actW, actV := t.actV, phase := t.phase, prev := t.prev }

/-- 41 R98 (spec decision D17). The boundary of the real variant: eight bits of history, and no phase. -/
def Obligations.RealBoundaryShiftsFourDibits : Prop :=
  ∀ (d : Dibit) (s : State),
    let t := boundaryR d s
    t.sr8.toNat = ((s.sr8.toNat <<< 2) ||| d.toNat) &&& 255 ∧ t.actW8 = t.sr8 ∧ t.actV = true ∧
    t = { s with sr8 := t.sr8, actW8 := t.actW8, actV := t.actV }

/-- 41 R109. The closed form of the phase over any sequence of boundaries: increments of all dibits but the newest, from
the `PREV` before, and the entry selected last has the sum without the last increment. -/
def Obligations.PhaseIsTheSumOfPastIncrements : Prop :=
  ∀ (s : State) (ds : List Dibit),
    let t := ds.foldl (fun a d => boundaryC d a) s
    let inc := fun k : Nat => (((s.prev :: ds).take k).map (phaseIncOf s.cfg)).sum
    (t.phase.toNat : Int) = ((s.phase.toNat : Int) + inc ds.length) % 8 ∧
    (ds ≠ [] → (t.actP.toNat : Int) = ((s.phase.toNat : Int) + inc (ds.length - 1)) % 8) ∧
    t.prev = (s.prev :: ds).getLast (by simp)

/-- 41 R108. From a history of zeros, three boundaries latch `d0`, `4*d0 + d1`, `16*d0 + 4*d1 + d2`, and a fourth drops
`d0`. -/
def Obligations.ShiftRegisterHoldsThreeDibits : Prop :=
  ∀ (s : State) (d0 d1 d2 d3 : Dibit), s.sr = 0 →
    let t1 := boundaryC d0 s
    let t2 := boundaryC d1 t1
    let t3 := boundaryC d2 t2
    t1.actW.toNat = d0.toNat ∧ t2.actW.toNat = 4 * d0.toNat + d1.toNat ∧
    t3.actW.toNat = 16 * d0.toNat + 4 * d1.toNat + d2.toNat ∧
    (boundaryC d3 t3).actW.toNat = 16 * d1.toNat + 4 * d2.toNat + d3.toNat

/-! ### PRODUCE -/

/-- 41 R100. From a state in range PRODUCE answers, emits exactly `n` samples, all of the variant's kind, and returns
`n`. -/
def Obligations.ProduceEmitsExactlyTheCount : Prop :=
  ∀ (n : BitVec 12) (s : State), s.fail = false → s.cursor < s.cfg.sps → s.cfg.d ≤ s.cfg.sps →
    ∃ (t : State) (xs : List Sample), exec (.produce n) s = .next t ∧ xs.length = n.toNat ∧
      (∀ x ∈ xs, x.isComplex = s.cfg.complex) ∧
      t.out = s.out ++ xs.map .sample ∧ t.counts = s.counts ++ [n.toNat] ∧ t.cursor < s.cfg.sps

/-- 10 R32, 41 R102. The frame of PRODUCE: nothing outside the sequencer and the queue, the other variant's registers
kept, and the queue shortened from the head by at most one dibit a sample, or emptied when muted. -/
def Obligations.ProduceChangesOnlyTheSequencer : Prop :=
  ∀ (n : BitVec 12) (s t : State), exec (.produce n) s = .next t →
    t.mute = s.mute ∧ t.frame = s.frame ∧ t.cwCount = s.cwCount ∧ t.unit = s.unit ∧ t.fail = s.fail ∧
    t.errCode = s.errCode ∧ t.cfg = s.cfg ∧ t.param = s.param ∧ t.symIn = s.symIn ∧ t.requests = s.requests ∧
    t.freeIx = s.freeIx ∧
    (s.cfg.complex = true → t.sr8 = s.sr8 ∧ t.actW8 = s.actW8) ∧
    (s.cfg.complex = false →
      t.phase = s.phase ∧ t.sr = s.sr ∧ t.prev = s.prev ∧ t.actP = s.actP ∧ t.actW = s.actW) ∧
    (s.mute = true → t.queue = []) ∧
    (s.mute = false → ∃ popped, s.queue = popped ++ t.queue ∧ popped.length ≤ n.toNat)

/-- 41 R97 (boundary and first sample in one tick: spec decision D12). One sample from IDLE with a dibit waiting, in the
complex variant: the whole next state. -/
def Obligations.ProduceOneAtABoundary : Prop :=
  ∀ (s : State) (d : Dibit) (rest : List Dibit), s.fail = false → s.mode = .idle → s.cfg.complex = true →
    s.queue = d :: rest → s.cursor ≤ s.cfg.sps →
    exec (.produce 1) s = .next
      { s with
        queue := rest
        sr := BitVec.ofNat 6 (4 * s.sr.toNat + d.toNat), actW := BitVec.ofNat 6 (4 * s.sr.toNat + d.toNat)
        actP := s.phase, phase := BitVec.ofInt 3 ((s.phase.toNat : Int) + phaseIncOf s.cfg s.prev), prev := d
        actV := decide (s.cursor + s.cfg.d < s.cfg.sps)
        cursor := if s.cursor + s.cfg.d < s.cfg.sps then s.cursor + s.cfg.d else s.cursor + s.cfg.d - s.cfg.sps
        out := s.out ++ [.sample (.romC s.phase (BitVec.ofNat 6 (4 * s.sr.toNat + d.toNat)) s.cursor)]
        counts := s.counts ++ [1] }

/-- 41 R98 (spec decisions D12, D17). The same in the real variant. -/
def Obligations.ProduceOneAtARealBoundary : Prop :=
  ∀ (s : State) (d : Dibit) (rest : List Dibit), s.fail = false → s.mode = .idle → s.cfg.complex = false →
    s.queue = d :: rest → s.cursor ≤ s.cfg.sps →
    exec (.produce 1) s = .next
      { s with
        queue := rest
        sr8 := BitVec.ofNat 8 (4 * s.sr8.toNat + d.toNat), actW8 := BitVec.ofNat 8 (4 * s.sr8.toNat + d.toNat)
        actV := decide (s.cursor + s.cfg.d < s.cfg.sps)
        cursor := if s.cursor + s.cfg.d < s.cfg.sps then s.cursor + s.cfg.d else s.cursor + s.cfg.d - s.cfg.sps
        out := s.out ++ [.sample (.romR (BitVec.ofNat 8 (4 * s.sr8.toNat + d.toNat)) s.cursor)]
        counts := s.counts ++ [1] }

/-- 41 R97, R98. One sample inside a symbol, in either variant: the cursor advances by `D` and wraps by `SPS` once, and
the wrap ends the symbol; nothing else changes. -/
def Obligations.ProduceOneInsideASymbol : Prop :=
  ∀ s : State, s.fail = false → s.mode = .emitting → s.cursor ≤ s.cfg.sps →
    exec (.produce 1) s = .next
      { s with
        actV := decide (s.cursor + s.cfg.d < s.cfg.sps)
        cursor := if s.cursor + s.cfg.d < s.cfg.sps then s.cursor + s.cfg.d else s.cursor + s.cfg.d - s.cfg.sps
        out := s.out ++
          [.sample (if s.cfg.complex then .romC s.actP s.actW s.cursor else .romR s.actW8 s.cursor)]
        counts := s.counts ++ [1] }

/-- 41 R99. Underrun: in IDLE with an empty queue a sample is ZERO and no register is written; and in EMITTING the queue
is not looked at, so with any queue the sample and the state are the same but for the queue, and the sample is not ZERO.
(The record of what was emitted and returned is the model's own, log entry 14.) -/
def Obligations.UnderrunHappensOnlyInIdle : Prop :=
  ∀ s : State, s.fail = false →
    (s.mode = .idle → s.queue = [] →
      exec (.produce 1) s = .next { s with out := s.out ++ [.sample (zeroOf s.cfg)], counts := s.counts ++ [1] }) ∧
    (s.mode = .emitting → s.cursor ≤ s.cfg.sps →
      ∃ (t : State) (x : Sample), x.isZero = false ∧ t.out = s.out ++ [.sample x] ∧
        ∀ q : List Dibit, exec (.produce 1) { s with queue := q } = .next { t with queue := q })

/-- 41 R111. With an empty queue: in IDLE a request of any length emits that many ZERO samples and writes no
register; in EMITTING the active waveform goes on (the first sample is not ZERO), and still neither `PHASE` nor `SR` is
written. -/
def Obligations.UnderrunIsIdempotent : Prop :=
  ∀ (n : BitVec 12) (s : State), s.fail = false → s.mute = false → s.queue = [] →
    (s.actV = false →
      exec (.produce n) s = .next
        { s with
          out := s.out ++ List.replicate n.toNat (.sample (zeroOf s.cfg)), counts := s.counts ++ [n.toNat] }) ∧
    (s.actV = true → ∀ t, exec (.produce n) s = .next t →
      t.phase = s.phase ∧ t.sr = s.sr ∧
      (n ≠ 0 → ∃ x, x.isZero = false ∧ t.out[s.out.length]? = some (.sample x)))

/-- 41 R100, R105 (muted PRODUCE 0: spec decision D26). A muted request empties the queue, emits ZERO samples and writes
nothing else, also when it asks for nothing. -/
def Obligations.MutedProduceFlushesAndEmitsZeros : Prop :=
  ∀ (n : BitVec 12) (s : State), s.fail = false → s.mute = true →
    exec (.produce n) s = .next
      { s with
        queue := [], out := s.out ++ List.replicate n.toNat (.sample (zeroOf s.cfg))
        counts := s.counts ++ [n.toNat] }

/-- 41 R101. Splitting a request changes nothing: `produce a` then `produce b` leave the state and the output of
`produce (a + b)`, apart from the counts returned. -/
def Obligations.SplittingARequestChangesNothing : Prop :=
  ∀ (a b c : BitVec 12) (s t u : State), a.toNat + b.toNat = c.toNat → exec (.produce a) s = .next t →
    exec (.produce b) t = .next u → exec (.produce c) s = .next { u with counts := s.counts ++ [c.toNat] }

/-- 41 R103. A symbol that begins at offset `c` emits `ceil((SPS - c) / D)` samples, at `c, c + D, c + 2D, ...`, and
leaves the cursor at `c + D * ceil((SPS - c) / D) - SPS`; in either variant. -/
def Obligations.SymbolLengthFollowsTheFormula : Prop :=
  ∀ (n : BitVec 12) (s : State) (d : Dibit) (rest : List Dibit), s.fail = false → s.mode = .idle →
    s.queue = d :: rest → s.cursor < s.cfg.sps → 1 ≤ s.cfg.d → s.cfg.d ≤ s.cfg.sps →
    n.toNat = (s.cfg.sps - s.cursor + s.cfg.d - 1) / s.cfg.d →
    let b := if s.cfg.complex then boundaryC d { s with queue := rest } else boundaryR d { s with queue := rest }
    let x := fun k : Nat => if s.cfg.complex then Sample.romC b.actP b.actW k else Sample.romR b.actW8 k
    exec (.produce n) s = .next
      { b with
        cursor := s.cursor + s.cfg.d * n.toNat - s.cfg.sps, actV := false
        out := s.out ++ (List.range n.toNat).map (fun i => .sample (x (s.cursor + i * s.cfg.d)))
        counts := s.counts ++ [n.toNat] }

/-- 41 R108, R109, R97 c. The modulator as a whole, one sample a symbol (`D = SPS`): a queue of `ds` is consumed in FIFO
order, and sample `k` is the ROM entry of the accumulated phase and the window of dibits up to the `k`-th. -/
def Obligations.QueueIsModulatedInFifoOrder : Prop :=
  ∀ (n : BitVec 12) (s : State) (ds : List Dibit), s.fail = false → s.mode = .idle → s.cfg.complex = true →
    s.queue = ds → n.toNat = ds.length → s.cursor < s.cfg.sps → s.cfg.d = s.cfg.sps →
    ∃ t, exec (.produce n) s = .next t ∧ t.queue = [] ∧ t.mode = .idle ∧ t.out.length = s.out.length + ds.length ∧
      ∀ k, k < ds.length → ∃ (p : BitVec 3) (w : BitVec 6),
        t.out[s.out.length + k]? = some (.sample (.romC p w s.cursor)) ∧
        (p.toNat : Int) = ((s.phase.toNat : Int) + (((s.prev :: ds).take k).map (phaseIncOf s.cfg)).sum) % 8 ∧
        w.toNat = (ds.take (k + 1)).foldl (fun v d => (4 * v + d.toNat) % 64) s.sr.toNat

/-- 41 R96. Only the residue of an increment modulo 8 matters: tables that agree modulo 8 give the same run. -/
def Obligations.OnlyIncrementResiduesMatter : Prop :=
  ∀ (n : BitVec 12) (s t : State) (q : Quad Int),
    q.x0 % 8 = s.cfg.phaseInc.x0 % 8 → q.x1 % 8 = s.cfg.phaseInc.x1 % 8 → q.x2 % 8 = s.cfg.phaseInc.x2 % 8 →
    q.x3 % 8 = s.cfg.phaseInc.x3 % 8 → exec (.produce n) s = .next t →
    exec (.produce n) { s with cfg := { s.cfg with phaseInc := q } } =
      .next { t with cfg := { t.cfg with phaseInc := q } }

/-! ### APPCW -/

/-- 43 R142, R143, R144. Codewords one to eight of a unit: encoded, interleaved at the count before the increment, and
counted; nothing else changes. -/
def Obligations.AppcwStoresOneCodeword : Prop :=
  ∀ s : State, s.fail = false → Params.fits s.cfg.paramW s.param = true → s.cwCount.toNat < 8 →
    exec .appcw s = .next
      { s with
        frame := (List.range s.cfg.frameBits).map ((Config.framePrims s.cfg.externals).interleaveBit s.frame
          ((List.range s.cfg.cwBits).map ((Config.framePrims s.cfg.externals).encodeBit s.param)) s.cwCount.toNat)
        cwCount := s.cwCount + 1 }

/-- 43 R142, R145 to R149 (frame cleared: spec decision D20; first header word: D21). The ninth codeword: the unit's
dibits are the pairs, even element first, of the frame after the header of the unit counter's low bit and after the
zeroing, which wins; they go to the tail of the queue in order; the counters step and the frame is cleared; nothing else
changes. -/
def Obligations.NinthCodewordEmitsTheUnit : Prop :=
  ∀ s : State, s.fail = false → Params.fits s.cfg.paramW s.param = true → s.cwCount = 8 → s.cfg.frameBits % 2 = 0 →
    (∀ i ∈ s.cfg.zeroPos, i < s.cfg.frameBits) →
    let P := Config.framePrims s.cfg.externals
    let f := (List.range s.cfg.frameBits).map (P.interleaveBit s.frame
      ((List.range s.cfg.cwBits).map (P.encodeBit s.param)) 8)
    let hw := if s.unit % 2 = 0 then s.cfg.syncWord0 else s.cfg.syncWord1
    let bit := fun i : Nat => if i ∈ s.cfg.zeroPos then false else P.setSyncBit f hw i
    exec .appcw s = .next
      { s with
        queue := s.queue ++ (List.range (s.cfg.frameBits / 2)).map (fun j =>
          BitVec.ofNat 2 (2 * (bit (2 * j)).toNat + (bit (2 * j + 1)).toNat))
        cwCount := 0, unit := s.unit + 1, frame := List.replicate s.cfg.frameBits false }

/-- 30 R65, 93 U16. APPCW stops, by name, on a vector with a field outside its width. -/
def Obligations.AppcwRefusesAFieldOutsideItsWidth : Prop :=
  ∀ s : State, s.fail = false → Params.fits s.cfg.paramW s.param = false → exec .appcw s = .refused .paramOutOfWidth

/-- 43 R151. Nine codewords in sequence, from an empty unit, append exactly one unit of `FRAME_BITS / 2` dibits, all of
it in the ninth; the counters are ready for the next unit, and nothing of the sequencer but the queue is touched. -/
def Obligations.NineCodewordsEmitOneUnit : Prop :=
  ∀ (s : State) (us : List Params) (v : RealNum) (rest : List Request), s.Inv → s.fail = false → s.cwCount = 0 →
    us.length = 9 → (∀ u ∈ us, Params.fits s.cfg.paramW u = true) →
    s.requests = us.map (fun u => .command ⟨0x2000, u, v⟩) ++ rest →
    (∃ t8, Sys2Proof.core.run 8 s = .next t8 ∧ t8.queue = s.queue ∧ t8.cwCount = 8 ∧ t8.unit = s.unit) ∧
    ∃ (t : State) (ds : List Dibit), Sys2Proof.core.run 9 s = .next t ∧ ds.length = s.cfg.frameBits / 2 ∧
      t.queue = s.queue ++ ds ∧ t.cwCount = 0 ∧ t.unit = s.unit + 1 ∧
      t.frame = List.replicate s.cfg.frameBits false ∧ t.requests = rest ∧
      t.phase = s.phase ∧ t.sr = s.sr ∧ t.sr8 = s.sr8 ∧ t.prev = s.prev ∧ t.cursor = s.cursor ∧ t.actV = s.actV ∧
      t.actP = s.actP ∧ t.actW = s.actW ∧ t.actW8 = s.actW8 ∧ t.mute = s.mute ∧ t.out = s.out ∧ t.counts = s.counts

/-- 43 R146. The order in which the zeroed positions are visited does not matter: two lists of the same positions give
the same frame. -/
def Obligations.ZeroingOrderDoesNotMatter : Prop :=
  ∀ (l m : List Nat) (f : List Bool), (∀ i, i ∈ l ↔ i ∈ m) → (∀ i ∈ l, i < f.length) →
    ∃ g, zeroPositions l f = .ok g ∧ zeroPositions m f = .ok g ∧ g.length = f.length ∧
      ∀ i, i < f.length → g[i]? = if i ∈ l then some false else f[i]?

/-- 43 R147. The conversion of a frame to dibits: `FRAME_BITS / 2` of them, dibit `j` being
`2 * FrameBit(2j) + FrameBit(2j+1)`. -/
def Obligations.FrameBecomesDibitsMsbFirst : Prop :=
  ∀ f : List Bool, f.length % 2 = 0 →
    ∃ ds, frameDibits f 0 (f.length / 2) = .ok ds ∧ ds.length = f.length / 2 ∧
      ∀ j, j < f.length / 2 → ∃ hi lo d, f[2 * j]? = some hi ∧ f[2 * j + 1]? = some lo ∧ ds[j]? = some d ∧
        d.toNat = 2 * hi.toNat + lo.toNat

/-! ### CLASSIFY -/

/-- 44 R156, R162 (real numbers: spec decision D22; how State holds them: the model's choice, log entry 5). The algorithm
in full, on the real numbers that the thresholds and the sample stand for, whatever the names of reals stand for: the
polarity branch, then the two overrides in order. CLASSIFY puts the result on `DIBIT_OUT` and writes no state; the word is
`0x5000`. -/
def Obligations.ClassifyAppliesTheThresholdTests : Prop :=
  (∀ (N : NamedReals) (t : Quad RealNum) (x : RealNum),
    sliceReal N t x =
      (let T := t.map (realValue N)
       let s := realValue N x
       let r1 : Dibit := if T.x3 < 0 then 1 else 3
       let r2 := if T.x3 < 0 ∧ T.x3 ≤ s ∧ s < T.x0 then 3 else r1
       let r3 := if ¬ T.x3 < 0 ∧ T.x2 ≤ s ∧ s < T.x3 then 1 else r2
       let r4 := if T.x0 ≤ s ∧ s < T.x1 then 2 else r3
       if T.x1 ≤ s ∧ s < T.x2 then 0 else r4)) ∧
  (∀ s : State, s.fail = false →
    exec .classify s = .next
      { s with out := s.out ++ [.dibit (sliceReal Config.namedReals s.cfg.t s.symIn)] }) ∧
  encode .classify = 0x5000

/-- 44 R157. With ascending thresholds and `T3 >= 0` CLASSIFY is a step function with five bands, closed below and open
above, on the real numbers (held as log entry 5 says). -/
def Obligations.AscendingThresholdsGiveFiveBands : Prop :=
  ∀ s : State, s.fail = false →
    let T := s.cfg.t.map (realValue Config.namedReals)
    let x := realValue Config.namedReals s.symIn
    T.x0 ≤ T.x1 → T.x1 ≤ T.x2 → T.x2 ≤ T.x3 → 0 ≤ T.x3 →
    ∃ r : Dibit, exec .classify s = .next { s with out := s.out ++ [.dibit r] } ∧
      (x < T.x0 → r = 3) ∧ (T.x0 ≤ x → x < T.x1 → r = 2) ∧ (T.x1 ≤ x → x < T.x2 → r = 0) ∧
      (T.x2 ≤ x → x < T.x3 → r = 1) ∧ (T.x3 ≤ x → r = 3)

/-- 44 R158. With ascending thresholds and `T3 < 0`: 2 on `[T0, T1)`, 0 on `[T1, T2)`, 1 everywhere else, never 3, on the
real numbers (held as log entry 5 says). -/
def Obligations.NegativeTopThresholdNeverGivesThree : Prop :=
  ∀ s : State, s.fail = false →
    let T := s.cfg.t.map (realValue Config.namedReals)
    let x := realValue Config.namedReals s.symIn
    T.x0 ≤ T.x1 → T.x1 ≤ T.x2 → T.x2 ≤ T.x3 → T.x3 < 0 →
    ∃ r : Dibit, exec .classify s = .next { s with out := s.out ++ [.dibit r] } ∧ r ≠ 3 ∧
      (x < T.x0 → r = 1) ∧ (T.x0 ≤ x → x < T.x1 → r = 2) ∧ (T.x1 ≤ x → x < T.x2 → r = 0) ∧ (T.x2 ≤ x → r = 1)

/-- 44 R159. The result depends on the real values of the sample and the thresholds alone: the same dibit in any state of
the block (how State holds a real: the model's choice, log entry 5; two data that stand for one real classify alike). -/
def Obligations.ClassifyIsAPureFunction : Prop :=
  ∀ s u : State, s.fail = false → u.fail = false →
    realValue Config.namedReals s.symIn = realValue Config.namedReals u.symIn →
    s.cfg.t.map (realValue Config.namedReals) = u.cfg.t.map (realValue Config.namedReals) →
    ∃ r : Dibit, exec .classify s = .next { s with out := s.out ++ [.dibit r] } ∧
      exec .classify u = .next { u with out := u.out ++ [.dibit r] }

/-- 10 R25, 30 R68, 44 R162 (real numbers: spec decision D22; how State holds them: the model's choice, log entry 5). Any
real numbers can stand on the straps and on `SYM_IN`: a rational stands for itself, the names can stand for any sequence of
reals, and the comparison a step computes is that of the real numbers. -/
def Obligations.EveryRealNumberCanBeGiven : Prop :=
  (∀ (N : NamedReals) (a b : RealNum), realLess N a b = true ↔ realValue N a < realValue N b) ∧
  (∀ (N : NamedReals) (q : Rat), realValue N (.rat q) = (q : ℝ)) ∧
  ∀ f : Nat → ℝ, ∃ N : NamedReals, ∀ k, realValue N (.named k) = f k

/-! ### The waveform ROM -/

/-- 40 R84. The magnitude of every ROM sample is at most GAIN, and under BUILD exactly GAIN, for every table and
every real GAIN; where the spec builds no ROM (COMPLEX = 0, an offset above SPS) the value is the model's choice (log entry
6). -/
def Obligations.RomMagnitudeIsTheGain : Prop :=
  ∀ (N : NamedReals) (W : WaveTables) (c : Cfg) (p : BitVec 3) (w : BitVec 6) (k : Nat), 0 ≤ realValue N c.gain →
    Real.sqrt ((waveformRom N W c p w k).1 ^ 2 + (waveformRom N W c p w k).2 ^ 2) ≤ realValue N c.gain ∧
    Real.sqrt ((waveformRom N W c p w k).1 ^ 2 + (waveformRom N W c p w k).2 ^ 2) = realValue N c.gain

/-- 40 R82, R81 (readings of BUILD: spec decision D9). The wrap brings the shifted value into `[-4, 4)` by a multiple of
8 and changes no sample. -/
def Obligations.WrapStepIsUnobservable : Prop :=
  (∀ v : ℝ, -4 ≤ wrap8 v ∧ wrap8 v < 4 ∧ ∃ j : ℤ, wrap8 v = v - 8 * (j : ℝ)) ∧
  ∀ (W : WaveTables) (gain : ℝ) (p w k : Nat),
    buildSample W gain p w k =
      (gain * Real.cos ((W.base w k + (W.refPhase w : ℝ) - (p : ℝ)) * (Real.pi / 4)),
       gain * Real.sin ((W.base w k + (W.refPhase w : ℝ) - (p : ℝ)) * (Real.pi / 4)))

/-- 70 R198. With `GAIN = 0` a complex ROM sample has the value of `ZERO`; where the spec builds no ROM, log entry 6. -/
def Obligations.ZeroGainHidesTheSamples : Prop :=
  ∀ (N : NamedReals) (W : WaveTables) (c : Cfg) (p : BitVec 3) (w : BitVec 6) (k : Nat), realValue N c.gain = 0 →
    Sample.value N W c (.romC p w k) = Sample.value N W c .zeroC

/-! ### The host agent and the notation -/

/-- 42 R125, and its clause that nothing else changes (the spec's derivation: the later steps are not reached). A datagram
whose length is neither the header's nor header and payload is logged (a log line is the occasion, with the length: the
model's choice, log entry 17) and discarded, with neither the tracker nor the key-up state changed and no request, and the
loop goes on; the two legal lengths pass the check. -/
def Obligations.WrongLengthDatagramIsDiscarded : Prop :=
  ∀ (cfg : SourceConfig) (voc : List Int → Params) (now : Nat) (bytes : List (BitVec 8)) (h : SourceState),
    (bytes.length ≠ 8 → bytes.length ≠ 8 + 2 * cfg.payloadSamples →
      receive cfg voc now bytes h = ({ h with log := h.log ++ [.badLength bytes.length] }, []) ∧
      ∀ rest, drainReads cfg voc (.datagram now bytes :: rest) h =
        drainReads cfg voc rest { h with log := h.log ++ [.badLength bytes.length] }) ∧
    (bytes.length = 8 ∨ bytes.length = 8 + 2 * cfg.payloadSamples → ∃ d, parseDatagram cfg bytes = some d)

/-- 42 R127, and the tracker's update of R122 (the spec's derivation from R134). A gap is logged exactly when the numbers
differ and both are non-zero, and has no other effect: with or without one the tracker takes the observed number and the
next, and nothing else of the source but the log is touched; whatever the tracker and the key-up state hold the same reads
make the same requests of the block (a vocoder without memory: the model's choice, log entry 24), and a datagram's payload
goes to the raw-audio queue alike. -/
def Obligations.SequenceGapsAreInformationalOnly : Prop :=
  (∀ (observed : BitVec 32) (h : SourceState),
    noteSequence observed h =
      { h with
        lastReceived := observed, expected := observed + 1
        log := if observed ≠ h.expected ∧ observed ≠ 0 ∧ h.expected ≠ 0 then h.log ++ [.gap h.expected observed]
               else h.log }) ∧
  (∀ (cfg : SourceConfig) (voc : List Int → Params) (now now' : Nat) (reads : List SocketRead) (h h' : SourceState),
    (drain cfg voc now reads h).2 = (drain cfg voc now' reads h').2) ∧
  ∀ (cfg : SourceConfig) (voc : List Int → Params) (bytes : List (BitVec 8)), ∃ samples,
    ∀ (now : Nat) (h : SourceState), (receive cfg voc now bytes h).1.rawAudio = h.rawAudio ++ samples

/-- 42 R126 (a non-zero word asserts: spec decision D30; the notification is the flag alone: the model's choice, log entry
23). An accepted datagram whose key-up flag differs from the state changes it, logs the change and notifies a sink that was
given; one whose flag does not differ does none of this. -/
def Obligations.KeyUpChangesAreLoggedAndNotified : Prop :=
  ∀ (cfg : SourceConfig) (voc : List Int → Params) (now : Nat) (bytes : List (BitVec 8)) (d : Datagram)
    (h : SourceState), parseDatagram cfg bytes = some d →
    let t := (receive cfg voc now bytes h).1
    (t.keyUp = true ↔ d.keyUpWord ≠ 0) ∧
    (t.keyUp = h.keyUp →
      t.notifications = h.notifications ∧ ∀ b, LogLine.keyUpChange b ∉ t.log.drop h.log.length) ∧
    (t.keyUp ≠ h.keyUp →
      t.notifications = (if cfg.hasSink then h.notifications ++ [t.keyUp] else h.notifications) ∧
      t.log[h.log.length]? = some (.keyUpChange t.keyUp))

/-- 42 R123, R128 (when the timer is looked at, and that the expiry itself counts: the model's choices, log entry 22). An
accepted key-up datagram sets the expiry to `now + HOLD`, any other leaves it. A drain begun when the expiry is reached,
whatever it then reads, logs the timeout first and exactly once and is otherwise the drain it would have been; any other
drain logs none, and is the reading of the socket alone. The timeout changes no request. -/
def Obligations.HoldTimerIsRefreshedAndObserved : Prop :=
  (∀ (cfg : SourceConfig) (voc : List Int → Params) (now : Nat) (bytes : List (BitVec 8)) (d : Datagram)
    (h : SourceState), parseDatagram cfg bytes = some d →
    let t := (receive cfg voc now bytes h).1
    (d.keyUpWord ≠ 0 → t.expiry = now + cfg.hold ∧ t.timedOut = false) ∧
    (d.keyUpWord = 0 → t.expiry = h.expiry ∧ t.timedOut = h.timedOut)) ∧
  ∀ (cfg : SourceConfig) (voc : List Int → Params) (now : Nat) (reads : List SocketRead) (h : SourceState),
    let t := drain cfg voc now reads h
    let noted := { h with timedOut := true, log := h.log ++ [.keyUpTimeout] }
    (h.keyUp = true → h.expiry ≤ now → h.timedOut = false →
      t = drain cfg voc now reads noted ∧
      t = (if cfg.listenPort = 0 then (noted, []) else drainReads cfg voc reads noted) ∧
      t.2 = (drain cfg voc now reads { h with timedOut := true }).2 ∧
      t.1.log[h.log.length]? = some .keyUpTimeout ∧
      t.1.log.count .keyUpTimeout = h.log.count .keyUpTimeout + 1) ∧
    (h.keyUp = false ∨ now < h.expiry ∨ h.timedOut = true →
      t = (if cfg.listenPort = 0 then (h, []) else drainReads cfg voc reads h) ∧
      t.1.log.count .keyUpTimeout = h.log.count .keyUpTimeout)

/-- 42 R129 (a vocoder without memory: the model's choice, log entry 24). When `0 < PAYLOAD_SAMPLES` a header-only datagram
makes no request and queues no audio. At any payload size, 0 among them, where a header alone is taken as a full datagram
with an empty payload (the model's reading, log entry 17), a full datagram makes exactly one APPCW
with the vocoder's vector when compressed voice is configured, and else appends its samples, two bytes each with the less
significant byte first, to the raw-audio queue. -/
def Obligations.PayloadIsDispatchedByConfiguration : Prop :=
  ∀ (cfg : SourceConfig) (voc : List Int → Params) (now : Nat) (head body : List (BitVec 8)) (h : SourceState),
    head.length = 8 →
    (0 < cfg.payloadSamples → body = [] →
      (receive cfg voc now (head ++ body) h).2 = [] ∧ (receive cfg voc now (head ++ body) h).1.rawAudio = h.rawAudio) ∧
    (body.length = 2 * cfg.payloadSamples →
      ∃ samples : List Int, samples.length = cfg.payloadSamples ∧
        (∀ i, i < cfg.payloadSamples → ∃ lo hi x, body[2 * i]? = some lo ∧ body[2 * i + 1]? = some hi ∧
          samples[i]? = some x ∧ x % 65536 = 256 * (hi.toNat : Int) + lo.toNat ∧ -32768 ≤ x ∧ x < 32768) ∧
        (cfg.useCompressedVoice = true →
          (∃ v : RealNum, (receive cfg voc now (head ++ body) h).2 = [.command ⟨0x2000, voc samples, v⟩]) ∧
          (receive cfg voc now (head ++ body) h).1.rawAudio = h.rawAudio) ∧
        (cfg.useCompressedVoice = false →
          (receive cfg voc now (head ++ body) h).2 = [] ∧
          (receive cfg voc now (head ++ body) h).1.rawAudio = h.rawAudio ++ samples))

/-- 42 R130 (an identical error is one with the code of the last logged: the model's choice, log entry 17). A socket error
ends the reading of this invocation with no request, whatever would have followed; it is logged, unless it is identical to
the one logged last. With `listenPort = 0` nothing is read. -/
def Obligations.SocketErrorStopsTheDrain : Prop :=
  ∀ (cfg : SourceConfig) (voc : List Int → Params) (now code : Nat) (rest : List SocketRead) (h : SourceState),
    (h.lastSocketError ≠ some code →
      drainReads cfg voc (.error code :: rest) h =
        ({ h with log := h.log ++ [.socketError code], lastSocketError := some code }, [])) ∧
    (h.lastSocketError = some code → drainReads cfg voc (.error code :: rest) h = (h, [])) ∧
    (∀ pre : List SocketRead, drainReads cfg voc (pre ++ .error code :: rest) h =
      drainReads cfg voc (pre ++ [.error code]) h) ∧
    (cfg.listenPort = 0 → (drain cfg voc now rest h).2 = [] ∧ drain cfg voc now rest h = drain cfg voc now [] h)

/-- 42 R134. Sequence numbers 5, 6, 9, with any flags: exactly one gap is logged, the one at 9. -/
def Obligations.GapExampleLogsOneWarning : Prop :=
  ∀ h : SourceState, h.expected = 0 →
    (noteSequence 9 (noteSequence 6 (noteSequence 5 h))).log = h.log ++ [.gap 7 9] ∧
    (noteSequence 9 (noteSequence 6 (noteSequence 5 h))).expected = 10

/-- 30 R74, R75 (notation: spec decision D5). An operand out of range has no encoding, and a line in range assembles to
the words of the notation's table, pseudo-instructions included. That `pushds` with no operand assembles to no command,
and `symbols` with `D = 0` to a count of 0, is the model's choice (log entry 21). -/
def Obligations.AssemblyFollowsTheNotation : Prop :=
  ∀ c : Cfg,
    let words := fun l : AsmLine => (assembleLine c l).map (fun ks => ks.map (fun k => k.word.toNat))
    (∀ d, words (.pushd d) = if d ≤ 3 then some [0x1000 + d] else none) ∧
    (∀ n, words (.produce n) = if n ≤ 4095 then some [0x3000 + n] else none) ∧
    (∀ m, words (.mute m) = if m ≤ 1 then some [0x4000 + m] else none) ∧
    (∀ x, (assembleLine c (.classify x)).map (·.map (fun k => (k.word.toNat, k.symIn))) = some [(0x5000, .rat x)]) ∧
    (∀ u, (assembleLine c (.appcw u)).map (·.map (fun k => (k.word.toNat, k.param))) =
      if Params.fits c.paramW u then some [(0x2000, u)] else none) ∧
    words .tick = some [0x3001] ∧ words .unmute = some [0x4000] ∧
    (∀ ds : List Nat, words (.pushds ds) = if ∀ d ∈ ds, d ≤ 3 then some (ds.map (fun d => 0x1000 + d)) else none) ∧
    (∀ k, words (.symbols k) =
      if k * ((c.sps + c.d - 1) / c.d) ≤ 4095 then some [0x3000 + k * ((c.sps + c.d - 1) / c.d)] else none)
end

