-- ==== Sys2Proof/Laws/Encoding.lean ====
section
/-! SUPPORT. The two fields of a command word, taken apart and put together. -/

namespace Sys2Proof

@[simp] theorem opField_append (o : BitVec 4) (a : BitVec 12) : opField (o ++ a) = o := by
  apply BitVec.eq_of_getLsbD_eq
  intro i hi
  unfold opField
  rw [BitVec.getLsbD_extractLsb', BitVec.getLsbD_append]
  simp [hi]

@[simp] theorem argField_append (o : BitVec 4) (a : BitVec 12) : argField (o ++ a) = a := by
  apply BitVec.eq_of_getLsbD_eq
  intro i hi
  unfold argField
  rw [BitVec.getLsbD_extractLsb', BitVec.getLsbD_append]
  simp [hi]

/-- A word is its two fields (30 R62). -/
theorem append_fields (c : CommandWord) : (opField c ++ argField c : BitVec 16) = c := by
  apply BitVec.eq_of_getLsbD_eq
  intro i hi
  unfold argField opField
  rw [BitVec.getLsbD_append, BitVec.getLsbD_extractLsb', BitVec.getLsbD_extractLsb']
  by_cases h : i < 12
  · simp [h]
  · have h4 : i - 12 < 4 := by omega
    have e : 12 + (i - 12) = i := by omega
    simp [h, h4, e]

/-- The number a word of two fields is. -/
theorem toNat_append_fields (o : BitVec 4) (a : BitVec 12) :
    (o ++ a : BitVec 16).toNat = 4096 * o.toNat + a.toNat := by
  rw [BitVec.toNat_append, ← Nat.shiftLeft_add_eq_or_of_lt a.isLt, Nat.shiftLeft_eq]
  omega

/-- The upper `w` bits of an argument are zero exactly when it is below `2^k`: the must-be-zero tests of 30 R73. -/
theorem upper_bits_eq_zero (a : BitVec 12) (k w : Nat) (hw : k + w = 12) :
    a.extractLsb' k w = 0 ↔ a.toNat < 2 ^ k := by
  have ha := a.isLt
  rw [← BitVec.toNat_inj, BitVec.extractLsb'_toNat]
  simp only [Nat.shiftRight_eq_div_pow]
  have h : a.toNat / 2 ^ k < 2 ^ w := by
    rw [Nat.div_lt_iff_lt_mul (by positivity), ← pow_add, add_comm, hw]
    exact ha
  rw [Nat.mod_eq_of_lt h]
  show a.toNat / 2 ^ k = 0 % 2 ^ w ↔ _
  simp [Nat.div_eq_zero_iff]

end Sys2Proof
end

