-- ==== Sys2Proof/Laws/State.lean ====
section
/-! SUPPORT. One lemma per field per update of State, so that no proof unfolds an update. -/

namespace Sys2Proof.Machine

/-! ### `setMute` -/

@[simp] theorem setMute_phase (m : Bool) (s : State) : (setMute m s).phase = s.phase := rfl
@[simp] theorem setMute_sr (m : Bool) (s : State) : (setMute m s).sr = s.sr := rfl
@[simp] theorem setMute_sr8 (m : Bool) (s : State) : (setMute m s).sr8 = s.sr8 := rfl
@[simp] theorem setMute_prev (m : Bool) (s : State) : (setMute m s).prev = s.prev := rfl
@[simp] theorem setMute_cursor (m : Bool) (s : State) : (setMute m s).cursor = s.cursor := rfl
@[simp] theorem setMute_actV (m : Bool) (s : State) : (setMute m s).actV = s.actV := rfl
@[simp] theorem setMute_actP (m : Bool) (s : State) : (setMute m s).actP = s.actP := rfl
@[simp] theorem setMute_actW (m : Bool) (s : State) : (setMute m s).actW = s.actW := rfl
@[simp] theorem setMute_actW8 (m : Bool) (s : State) : (setMute m s).actW8 = s.actW8 := rfl
@[simp] theorem setMute_mute (m : Bool) (s : State) : (setMute m s).mute = m := rfl
@[simp] theorem setMute_queue (m : Bool) (s : State) : (setMute m s).queue = s.queue := rfl
@[simp] theorem setMute_frame (m : Bool) (s : State) : (setMute m s).frame = s.frame := rfl
@[simp] theorem setMute_cwCount (m : Bool) (s : State) : (setMute m s).cwCount = s.cwCount := rfl
@[simp] theorem setMute_unit (m : Bool) (s : State) : (setMute m s).unit = s.unit := rfl
@[simp] theorem setMute_fail (m : Bool) (s : State) : (setMute m s).fail = s.fail := rfl
@[simp] theorem setMute_errCode (m : Bool) (s : State) : (setMute m s).errCode = s.errCode := rfl
@[simp] theorem setMute_cfg (m : Bool) (s : State) : (setMute m s).cfg = s.cfg := rfl
@[simp] theorem setMute_param (m : Bool) (s : State) : (setMute m s).param = s.param := rfl
@[simp] theorem setMute_symIn (m : Bool) (s : State) : (setMute m s).symIn = s.symIn := rfl
@[simp] theorem setMute_requests (m : Bool) (s : State) : (setMute m s).requests = s.requests := rfl
@[simp] theorem setMute_out (m : Bool) (s : State) : (setMute m s).out = s.out := rfl
@[simp] theorem setMute_counts (m : Bool) (s : State) : (setMute m s).counts = s.counts := rfl
@[simp] theorem setMute_freeIx (m : Bool) (s : State) : (setMute m s).freeIx = s.freeIx := rfl

/-! ### `clearActive` -/

@[simp] theorem clearActive_phase (s : State) : (clearActive s).phase = s.phase := rfl
@[simp] theorem clearActive_sr (s : State) : (clearActive s).sr = s.sr := rfl
@[simp] theorem clearActive_sr8 (s : State) : (clearActive s).sr8 = s.sr8 := rfl
@[simp] theorem clearActive_prev (s : State) : (clearActive s).prev = s.prev := rfl
@[simp] theorem clearActive_cursor (s : State) : (clearActive s).cursor = s.cursor := rfl
@[simp] theorem clearActive_actV (s : State) : (clearActive s).actV = false := rfl
@[simp] theorem clearActive_actP (s : State) : (clearActive s).actP = s.actP := rfl
@[simp] theorem clearActive_actW (s : State) : (clearActive s).actW = s.actW := rfl
@[simp] theorem clearActive_actW8 (s : State) : (clearActive s).actW8 = s.actW8 := rfl
@[simp] theorem clearActive_mute (s : State) : (clearActive s).mute = s.mute := rfl
@[simp] theorem clearActive_queue (s : State) : (clearActive s).queue = s.queue := rfl
@[simp] theorem clearActive_frame (s : State) : (clearActive s).frame = s.frame := rfl
@[simp] theorem clearActive_cwCount (s : State) : (clearActive s).cwCount = s.cwCount := rfl
@[simp] theorem clearActive_unit (s : State) : (clearActive s).unit = s.unit := rfl
@[simp] theorem clearActive_fail (s : State) : (clearActive s).fail = s.fail := rfl
@[simp] theorem clearActive_errCode (s : State) : (clearActive s).errCode = s.errCode := rfl
@[simp] theorem clearActive_cfg (s : State) : (clearActive s).cfg = s.cfg := rfl
@[simp] theorem clearActive_param (s : State) : (clearActive s).param = s.param := rfl
@[simp] theorem clearActive_symIn (s : State) : (clearActive s).symIn = s.symIn := rfl
@[simp] theorem clearActive_requests (s : State) : (clearActive s).requests = s.requests := rfl
@[simp] theorem clearActive_out (s : State) : (clearActive s).out = s.out := rfl
@[simp] theorem clearActive_counts (s : State) : (clearActive s).counts = s.counts := rfl
@[simp] theorem clearActive_freeIx (s : State) : (clearActive s).freeIx = s.freeIx := rfl

/-! ### `qPush` -/

@[simp] theorem qPush_phase (d : Dibit) (s : State) : (qPush d s).phase = s.phase := rfl
@[simp] theorem qPush_sr (d : Dibit) (s : State) : (qPush d s).sr = s.sr := rfl
@[simp] theorem qPush_sr8 (d : Dibit) (s : State) : (qPush d s).sr8 = s.sr8 := rfl
@[simp] theorem qPush_prev (d : Dibit) (s : State) : (qPush d s).prev = s.prev := rfl
@[simp] theorem qPush_cursor (d : Dibit) (s : State) : (qPush d s).cursor = s.cursor := rfl
@[simp] theorem qPush_actV (d : Dibit) (s : State) : (qPush d s).actV = s.actV := rfl
@[simp] theorem qPush_actP (d : Dibit) (s : State) : (qPush d s).actP = s.actP := rfl
@[simp] theorem qPush_actW (d : Dibit) (s : State) : (qPush d s).actW = s.actW := rfl
@[simp] theorem qPush_actW8 (d : Dibit) (s : State) : (qPush d s).actW8 = s.actW8 := rfl
@[simp] theorem qPush_mute (d : Dibit) (s : State) : (qPush d s).mute = s.mute := rfl
@[simp] theorem qPush_queue (d : Dibit) (s : State) : (qPush d s).queue = s.queue ++ [d] := rfl
@[simp] theorem qPush_frame (d : Dibit) (s : State) : (qPush d s).frame = s.frame := rfl
@[simp] theorem qPush_cwCount (d : Dibit) (s : State) : (qPush d s).cwCount = s.cwCount := rfl
@[simp] theorem qPush_unit (d : Dibit) (s : State) : (qPush d s).unit = s.unit := rfl
@[simp] theorem qPush_fail (d : Dibit) (s : State) : (qPush d s).fail = s.fail := rfl
@[simp] theorem qPush_errCode (d : Dibit) (s : State) : (qPush d s).errCode = s.errCode := rfl
@[simp] theorem qPush_cfg (d : Dibit) (s : State) : (qPush d s).cfg = s.cfg := rfl
@[simp] theorem qPush_param (d : Dibit) (s : State) : (qPush d s).param = s.param := rfl
@[simp] theorem qPush_symIn (d : Dibit) (s : State) : (qPush d s).symIn = s.symIn := rfl
@[simp] theorem qPush_requests (d : Dibit) (s : State) : (qPush d s).requests = s.requests := rfl
@[simp] theorem qPush_out (d : Dibit) (s : State) : (qPush d s).out = s.out := rfl
@[simp] theorem qPush_counts (d : Dibit) (s : State) : (qPush d s).counts = s.counts := rfl
@[simp] theorem qPush_freeIx (d : Dibit) (s : State) : (qPush d s).freeIx = s.freeIx := rfl

/-! ### `qFlush` -/

@[simp] theorem qFlush_phase (s : State) : (qFlush s).phase = s.phase := rfl
@[simp] theorem qFlush_sr (s : State) : (qFlush s).sr = s.sr := rfl
@[simp] theorem qFlush_sr8 (s : State) : (qFlush s).sr8 = s.sr8 := rfl
@[simp] theorem qFlush_prev (s : State) : (qFlush s).prev = s.prev := rfl
@[simp] theorem qFlush_cursor (s : State) : (qFlush s).cursor = s.cursor := rfl
@[simp] theorem qFlush_actV (s : State) : (qFlush s).actV = s.actV := rfl
@[simp] theorem qFlush_actP (s : State) : (qFlush s).actP = s.actP := rfl
@[simp] theorem qFlush_actW (s : State) : (qFlush s).actW = s.actW := rfl
@[simp] theorem qFlush_actW8 (s : State) : (qFlush s).actW8 = s.actW8 := rfl
@[simp] theorem qFlush_mute (s : State) : (qFlush s).mute = s.mute := rfl
@[simp] theorem qFlush_queue (s : State) : (qFlush s).queue = [] := rfl
@[simp] theorem qFlush_frame (s : State) : (qFlush s).frame = s.frame := rfl
@[simp] theorem qFlush_cwCount (s : State) : (qFlush s).cwCount = s.cwCount := rfl
@[simp] theorem qFlush_unit (s : State) : (qFlush s).unit = s.unit := rfl
@[simp] theorem qFlush_fail (s : State) : (qFlush s).fail = s.fail := rfl
@[simp] theorem qFlush_errCode (s : State) : (qFlush s).errCode = s.errCode := rfl
@[simp] theorem qFlush_cfg (s : State) : (qFlush s).cfg = s.cfg := rfl
@[simp] theorem qFlush_param (s : State) : (qFlush s).param = s.param := rfl
@[simp] theorem qFlush_symIn (s : State) : (qFlush s).symIn = s.symIn := rfl
@[simp] theorem qFlush_requests (s : State) : (qFlush s).requests = s.requests := rfl
@[simp] theorem qFlush_out (s : State) : (qFlush s).out = s.out := rfl
@[simp] theorem qFlush_counts (s : State) : (qFlush s).counts = s.counts := rfl
@[simp] theorem qFlush_freeIx (s : State) : (qFlush s).freeIx = s.freeIx := rfl

/-! ### `emitSamples` -/

@[simp] theorem emitSamples_phase (n : Nat) (xs : List Sample) (s : State) : (emitSamples n xs s).phase = s.phase := rfl
@[simp] theorem emitSamples_sr (n : Nat) (xs : List Sample) (s : State) : (emitSamples n xs s).sr = s.sr := rfl
@[simp] theorem emitSamples_sr8 (n : Nat) (xs : List Sample) (s : State) : (emitSamples n xs s).sr8 = s.sr8 := rfl
@[simp] theorem emitSamples_prev (n : Nat) (xs : List Sample) (s : State) : (emitSamples n xs s).prev = s.prev := rfl
@[simp] theorem emitSamples_cursor (n : Nat) (xs : List Sample) (s : State) : (emitSamples n xs s).cursor = s.cursor := rfl
@[simp] theorem emitSamples_actV (n : Nat) (xs : List Sample) (s : State) : (emitSamples n xs s).actV = s.actV := rfl
@[simp] theorem emitSamples_actP (n : Nat) (xs : List Sample) (s : State) : (emitSamples n xs s).actP = s.actP := rfl
@[simp] theorem emitSamples_actW (n : Nat) (xs : List Sample) (s : State) : (emitSamples n xs s).actW = s.actW := rfl
@[simp] theorem emitSamples_actW8 (n : Nat) (xs : List Sample) (s : State) : (emitSamples n xs s).actW8 = s.actW8 := rfl
@[simp] theorem emitSamples_mute (n : Nat) (xs : List Sample) (s : State) : (emitSamples n xs s).mute = s.mute := rfl
@[simp] theorem emitSamples_queue (n : Nat) (xs : List Sample) (s : State) : (emitSamples n xs s).queue = s.queue := rfl
@[simp] theorem emitSamples_frame (n : Nat) (xs : List Sample) (s : State) : (emitSamples n xs s).frame = s.frame := rfl
@[simp] theorem emitSamples_cwCount (n : Nat) (xs : List Sample) (s : State) : (emitSamples n xs s).cwCount = s.cwCount := rfl
@[simp] theorem emitSamples_unit (n : Nat) (xs : List Sample) (s : State) : (emitSamples n xs s).unit = s.unit := rfl
@[simp] theorem emitSamples_fail (n : Nat) (xs : List Sample) (s : State) : (emitSamples n xs s).fail = s.fail := rfl
@[simp] theorem emitSamples_errCode (n : Nat) (xs : List Sample) (s : State) : (emitSamples n xs s).errCode = s.errCode := rfl
@[simp] theorem emitSamples_cfg (n : Nat) (xs : List Sample) (s : State) : (emitSamples n xs s).cfg = s.cfg := rfl
@[simp] theorem emitSamples_param (n : Nat) (xs : List Sample) (s : State) : (emitSamples n xs s).param = s.param := rfl
@[simp] theorem emitSamples_symIn (n : Nat) (xs : List Sample) (s : State) : (emitSamples n xs s).symIn = s.symIn := rfl
@[simp] theorem emitSamples_requests (n : Nat) (xs : List Sample) (s : State) : (emitSamples n xs s).requests = s.requests := rfl
@[simp] theorem emitSamples_out (n : Nat) (xs : List Sample) (s : State) : (emitSamples n xs s).out = s.out ++ xs.map .sample := rfl
@[simp] theorem emitSamples_counts (n : Nat) (xs : List Sample) (s : State) : (emitSamples n xs s).counts = s.counts ++ [n] := rfl
@[simp] theorem emitSamples_freeIx (n : Nat) (xs : List Sample) (s : State) : (emitSamples n xs s).freeIx = s.freeIx := rfl

/-! ### `emitDibit` -/

@[simp] theorem emitDibit_phase (d : Dibit) (s : State) : (emitDibit d s).phase = s.phase := rfl
@[simp] theorem emitDibit_sr (d : Dibit) (s : State) : (emitDibit d s).sr = s.sr := rfl
@[simp] theorem emitDibit_sr8 (d : Dibit) (s : State) : (emitDibit d s).sr8 = s.sr8 := rfl
@[simp] theorem emitDibit_prev (d : Dibit) (s : State) : (emitDibit d s).prev = s.prev := rfl
@[simp] theorem emitDibit_cursor (d : Dibit) (s : State) : (emitDibit d s).cursor = s.cursor := rfl
@[simp] theorem emitDibit_actV (d : Dibit) (s : State) : (emitDibit d s).actV = s.actV := rfl
@[simp] theorem emitDibit_actP (d : Dibit) (s : State) : (emitDibit d s).actP = s.actP := rfl
@[simp] theorem emitDibit_actW (d : Dibit) (s : State) : (emitDibit d s).actW = s.actW := rfl
@[simp] theorem emitDibit_actW8 (d : Dibit) (s : State) : (emitDibit d s).actW8 = s.actW8 := rfl
@[simp] theorem emitDibit_mute (d : Dibit) (s : State) : (emitDibit d s).mute = s.mute := rfl
@[simp] theorem emitDibit_queue (d : Dibit) (s : State) : (emitDibit d s).queue = s.queue := rfl
@[simp] theorem emitDibit_frame (d : Dibit) (s : State) : (emitDibit d s).frame = s.frame := rfl
@[simp] theorem emitDibit_cwCount (d : Dibit) (s : State) : (emitDibit d s).cwCount = s.cwCount := rfl
@[simp] theorem emitDibit_unit (d : Dibit) (s : State) : (emitDibit d s).unit = s.unit := rfl
@[simp] theorem emitDibit_fail (d : Dibit) (s : State) : (emitDibit d s).fail = s.fail := rfl
@[simp] theorem emitDibit_errCode (d : Dibit) (s : State) : (emitDibit d s).errCode = s.errCode := rfl
@[simp] theorem emitDibit_cfg (d : Dibit) (s : State) : (emitDibit d s).cfg = s.cfg := rfl
@[simp] theorem emitDibit_param (d : Dibit) (s : State) : (emitDibit d s).param = s.param := rfl
@[simp] theorem emitDibit_symIn (d : Dibit) (s : State) : (emitDibit d s).symIn = s.symIn := rfl
@[simp] theorem emitDibit_requests (d : Dibit) (s : State) : (emitDibit d s).requests = s.requests := rfl
@[simp] theorem emitDibit_out (d : Dibit) (s : State) : (emitDibit d s).out = s.out ++ [.dibit d] := rfl
@[simp] theorem emitDibit_counts (d : Dibit) (s : State) : (emitDibit d s).counts = s.counts := rfl
@[simp] theorem emitDibit_freeIx (d : Dibit) (s : State) : (emitDibit d s).freeIx = s.freeIx := rfl

/-! ### `takeRequest` -/

@[simp] theorem takeRequest_phase (rest : List Request) (s : State) : (takeRequest rest s).phase = s.phase := rfl
@[simp] theorem takeRequest_sr (rest : List Request) (s : State) : (takeRequest rest s).sr = s.sr := rfl
@[simp] theorem takeRequest_sr8 (rest : List Request) (s : State) : (takeRequest rest s).sr8 = s.sr8 := rfl
@[simp] theorem takeRequest_prev (rest : List Request) (s : State) : (takeRequest rest s).prev = s.prev := rfl
@[simp] theorem takeRequest_cursor (rest : List Request) (s : State) : (takeRequest rest s).cursor = s.cursor := rfl
@[simp] theorem takeRequest_actV (rest : List Request) (s : State) : (takeRequest rest s).actV = s.actV := rfl
@[simp] theorem takeRequest_actP (rest : List Request) (s : State) : (takeRequest rest s).actP = s.actP := rfl
@[simp] theorem takeRequest_actW (rest : List Request) (s : State) : (takeRequest rest s).actW = s.actW := rfl
@[simp] theorem takeRequest_actW8 (rest : List Request) (s : State) : (takeRequest rest s).actW8 = s.actW8 := rfl
@[simp] theorem takeRequest_mute (rest : List Request) (s : State) : (takeRequest rest s).mute = s.mute := rfl
@[simp] theorem takeRequest_queue (rest : List Request) (s : State) : (takeRequest rest s).queue = s.queue := rfl
@[simp] theorem takeRequest_frame (rest : List Request) (s : State) : (takeRequest rest s).frame = s.frame := rfl
@[simp] theorem takeRequest_cwCount (rest : List Request) (s : State) : (takeRequest rest s).cwCount = s.cwCount := rfl
@[simp] theorem takeRequest_unit (rest : List Request) (s : State) : (takeRequest rest s).unit = s.unit := rfl
@[simp] theorem takeRequest_fail (rest : List Request) (s : State) : (takeRequest rest s).fail = s.fail := rfl
@[simp] theorem takeRequest_errCode (rest : List Request) (s : State) : (takeRequest rest s).errCode = s.errCode := rfl
@[simp] theorem takeRequest_cfg (rest : List Request) (s : State) : (takeRequest rest s).cfg = s.cfg := rfl
@[simp] theorem takeRequest_param (rest : List Request) (s : State) : (takeRequest rest s).param = s.param := rfl
@[simp] theorem takeRequest_symIn (rest : List Request) (s : State) : (takeRequest rest s).symIn = s.symIn := rfl
@[simp] theorem takeRequest_requests (rest : List Request) (s : State) : (takeRequest rest s).requests = rest := rfl
@[simp] theorem takeRequest_out (rest : List Request) (s : State) : (takeRequest rest s).out = s.out := rfl
@[simp] theorem takeRequest_counts (rest : List Request) (s : State) : (takeRequest rest s).counts = s.counts := rfl
@[simp] theorem takeRequest_freeIx (rest : List Request) (s : State) : (takeRequest rest s).freeIx = s.freeIx := rfl

/-! ### `latchPorts` -/

@[simp] theorem latchPorts_phase (c : Command) (s : State) : (latchPorts c s).phase = s.phase := rfl
@[simp] theorem latchPorts_sr (c : Command) (s : State) : (latchPorts c s).sr = s.sr := rfl
@[simp] theorem latchPorts_sr8 (c : Command) (s : State) : (latchPorts c s).sr8 = s.sr8 := rfl
@[simp] theorem latchPorts_prev (c : Command) (s : State) : (latchPorts c s).prev = s.prev := rfl
@[simp] theorem latchPorts_cursor (c : Command) (s : State) : (latchPorts c s).cursor = s.cursor := rfl
@[simp] theorem latchPorts_actV (c : Command) (s : State) : (latchPorts c s).actV = s.actV := rfl
@[simp] theorem latchPorts_actP (c : Command) (s : State) : (latchPorts c s).actP = s.actP := rfl
@[simp] theorem latchPorts_actW (c : Command) (s : State) : (latchPorts c s).actW = s.actW := rfl
@[simp] theorem latchPorts_actW8 (c : Command) (s : State) : (latchPorts c s).actW8 = s.actW8 := rfl
@[simp] theorem latchPorts_mute (c : Command) (s : State) : (latchPorts c s).mute = s.mute := rfl
@[simp] theorem latchPorts_queue (c : Command) (s : State) : (latchPorts c s).queue = s.queue := rfl
@[simp] theorem latchPorts_frame (c : Command) (s : State) : (latchPorts c s).frame = s.frame := rfl
@[simp] theorem latchPorts_cwCount (c : Command) (s : State) : (latchPorts c s).cwCount = s.cwCount := rfl
@[simp] theorem latchPorts_unit (c : Command) (s : State) : (latchPorts c s).unit = s.unit := rfl
@[simp] theorem latchPorts_fail (c : Command) (s : State) : (latchPorts c s).fail = s.fail := rfl
@[simp] theorem latchPorts_errCode (c : Command) (s : State) : (latchPorts c s).errCode = s.errCode := rfl
@[simp] theorem latchPorts_cfg (c : Command) (s : State) : (latchPorts c s).cfg = s.cfg := rfl
@[simp] theorem latchPorts_param (c : Command) (s : State) : (latchPorts c s).param = c.param := rfl
@[simp] theorem latchPorts_symIn (c : Command) (s : State) : (latchPorts c s).symIn = c.symIn := rfl
@[simp] theorem latchPorts_requests (c : Command) (s : State) : (latchPorts c s).requests = s.requests := rfl
@[simp] theorem latchPorts_out (c : Command) (s : State) : (latchPorts c s).out = s.out := rfl
@[simp] theorem latchPorts_counts (c : Command) (s : State) : (latchPorts c s).counts = s.counts := rfl
@[simp] theorem latchPorts_freeIx (c : Command) (s : State) : (latchPorts c s).freeIx = s.freeIx := rfl

/-! ### `boundaryC` -/

@[simp] theorem boundaryC_phase (d : Dibit) (s : State) : (boundaryC d s).phase = addPhase s.phase (phaseIncOf s.cfg s.prev) := rfl
@[simp] theorem boundaryC_sr (d : Dibit) (s : State) : (boundaryC d s).sr = shiftInDibit s.sr d := rfl
@[simp] theorem boundaryC_sr8 (d : Dibit) (s : State) : (boundaryC d s).sr8 = s.sr8 := rfl
@[simp] theorem boundaryC_prev (d : Dibit) (s : State) : (boundaryC d s).prev = d := rfl
@[simp] theorem boundaryC_cursor (d : Dibit) (s : State) : (boundaryC d s).cursor = s.cursor := rfl
@[simp] theorem boundaryC_actV (d : Dibit) (s : State) : (boundaryC d s).actV = true := rfl
@[simp] theorem boundaryC_actP (d : Dibit) (s : State) : (boundaryC d s).actP = s.phase := rfl
@[simp] theorem boundaryC_actW (d : Dibit) (s : State) : (boundaryC d s).actW = shiftInDibit s.sr d := rfl
@[simp] theorem boundaryC_actW8 (d : Dibit) (s : State) : (boundaryC d s).actW8 = s.actW8 := rfl
@[simp] theorem boundaryC_mute (d : Dibit) (s : State) : (boundaryC d s).mute = s.mute := rfl
@[simp] theorem boundaryC_queue (d : Dibit) (s : State) : (boundaryC d s).queue = s.queue := rfl
@[simp] theorem boundaryC_frame (d : Dibit) (s : State) : (boundaryC d s).frame = s.frame := rfl
@[simp] theorem boundaryC_cwCount (d : Dibit) (s : State) : (boundaryC d s).cwCount = s.cwCount := rfl
@[simp] theorem boundaryC_unit (d : Dibit) (s : State) : (boundaryC d s).unit = s.unit := rfl
@[simp] theorem boundaryC_fail (d : Dibit) (s : State) : (boundaryC d s).fail = s.fail := rfl
@[simp] theorem boundaryC_errCode (d : Dibit) (s : State) : (boundaryC d s).errCode = s.errCode := rfl
@[simp] theorem boundaryC_cfg (d : Dibit) (s : State) : (boundaryC d s).cfg = s.cfg := rfl
@[simp] theorem boundaryC_param (d : Dibit) (s : State) : (boundaryC d s).param = s.param := rfl
@[simp] theorem boundaryC_symIn (d : Dibit) (s : State) : (boundaryC d s).symIn = s.symIn := rfl
@[simp] theorem boundaryC_requests (d : Dibit) (s : State) : (boundaryC d s).requests = s.requests := rfl
@[simp] theorem boundaryC_out (d : Dibit) (s : State) : (boundaryC d s).out = s.out := rfl
@[simp] theorem boundaryC_counts (d : Dibit) (s : State) : (boundaryC d s).counts = s.counts := rfl
@[simp] theorem boundaryC_freeIx (d : Dibit) (s : State) : (boundaryC d s).freeIx = s.freeIx := rfl

/-! ### `boundaryR` -/

@[simp] theorem boundaryR_phase (d : Dibit) (s : State) : (boundaryR d s).phase = s.phase := rfl
@[simp] theorem boundaryR_sr (d : Dibit) (s : State) : (boundaryR d s).sr = s.sr := rfl
@[simp] theorem boundaryR_sr8 (d : Dibit) (s : State) : (boundaryR d s).sr8 = shiftInDibit s.sr8 d := rfl
@[simp] theorem boundaryR_prev (d : Dibit) (s : State) : (boundaryR d s).prev = s.prev := rfl
@[simp] theorem boundaryR_cursor (d : Dibit) (s : State) : (boundaryR d s).cursor = s.cursor := rfl
@[simp] theorem boundaryR_actV (d : Dibit) (s : State) : (boundaryR d s).actV = true := rfl
@[simp] theorem boundaryR_actP (d : Dibit) (s : State) : (boundaryR d s).actP = s.actP := rfl
@[simp] theorem boundaryR_actW (d : Dibit) (s : State) : (boundaryR d s).actW = s.actW := rfl
@[simp] theorem boundaryR_actW8 (d : Dibit) (s : State) : (boundaryR d s).actW8 = shiftInDibit s.sr8 d := rfl
@[simp] theorem boundaryR_mute (d : Dibit) (s : State) : (boundaryR d s).mute = s.mute := rfl
@[simp] theorem boundaryR_queue (d : Dibit) (s : State) : (boundaryR d s).queue = s.queue := rfl
@[simp] theorem boundaryR_frame (d : Dibit) (s : State) : (boundaryR d s).frame = s.frame := rfl
@[simp] theorem boundaryR_cwCount (d : Dibit) (s : State) : (boundaryR d s).cwCount = s.cwCount := rfl
@[simp] theorem boundaryR_unit (d : Dibit) (s : State) : (boundaryR d s).unit = s.unit := rfl
@[simp] theorem boundaryR_fail (d : Dibit) (s : State) : (boundaryR d s).fail = s.fail := rfl
@[simp] theorem boundaryR_errCode (d : Dibit) (s : State) : (boundaryR d s).errCode = s.errCode := rfl
@[simp] theorem boundaryR_cfg (d : Dibit) (s : State) : (boundaryR d s).cfg = s.cfg := rfl
@[simp] theorem boundaryR_param (d : Dibit) (s : State) : (boundaryR d s).param = s.param := rfl
@[simp] theorem boundaryR_symIn (d : Dibit) (s : State) : (boundaryR d s).symIn = s.symIn := rfl
@[simp] theorem boundaryR_requests (d : Dibit) (s : State) : (boundaryR d s).requests = s.requests := rfl
@[simp] theorem boundaryR_out (d : Dibit) (s : State) : (boundaryR d s).out = s.out := rfl
@[simp] theorem boundaryR_counts (d : Dibit) (s : State) : (boundaryR d s).counts = s.counts := rfl
@[simp] theorem boundaryR_freeIx (d : Dibit) (s : State) : (boundaryR d s).freeIx = s.freeIx := rfl

/-! ### `storeCodeword` -/

@[simp] theorem storeCodeword_phase (f : List Bool) (s : State) : (storeCodeword f s).phase = s.phase := rfl
@[simp] theorem storeCodeword_sr (f : List Bool) (s : State) : (storeCodeword f s).sr = s.sr := rfl
@[simp] theorem storeCodeword_sr8 (f : List Bool) (s : State) : (storeCodeword f s).sr8 = s.sr8 := rfl
@[simp] theorem storeCodeword_prev (f : List Bool) (s : State) : (storeCodeword f s).prev = s.prev := rfl
@[simp] theorem storeCodeword_cursor (f : List Bool) (s : State) : (storeCodeword f s).cursor = s.cursor := rfl
@[simp] theorem storeCodeword_actV (f : List Bool) (s : State) : (storeCodeword f s).actV = s.actV := rfl
@[simp] theorem storeCodeword_actP (f : List Bool) (s : State) : (storeCodeword f s).actP = s.actP := rfl
@[simp] theorem storeCodeword_actW (f : List Bool) (s : State) : (storeCodeword f s).actW = s.actW := rfl
@[simp] theorem storeCodeword_actW8 (f : List Bool) (s : State) : (storeCodeword f s).actW8 = s.actW8 := rfl
@[simp] theorem storeCodeword_mute (f : List Bool) (s : State) : (storeCodeword f s).mute = s.mute := rfl
@[simp] theorem storeCodeword_queue (f : List Bool) (s : State) : (storeCodeword f s).queue = s.queue := rfl
@[simp] theorem storeCodeword_frame (f : List Bool) (s : State) : (storeCodeword f s).frame = f := rfl
@[simp] theorem storeCodeword_cwCount (f : List Bool) (s : State) : (storeCodeword f s).cwCount = s.cwCount + 1 := rfl
@[simp] theorem storeCodeword_unit (f : List Bool) (s : State) : (storeCodeword f s).unit = s.unit := rfl
@[simp] theorem storeCodeword_fail (f : List Bool) (s : State) : (storeCodeword f s).fail = s.fail := rfl
@[simp] theorem storeCodeword_errCode (f : List Bool) (s : State) : (storeCodeword f s).errCode = s.errCode := rfl
@[simp] theorem storeCodeword_cfg (f : List Bool) (s : State) : (storeCodeword f s).cfg = s.cfg := rfl
@[simp] theorem storeCodeword_param (f : List Bool) (s : State) : (storeCodeword f s).param = s.param := rfl
@[simp] theorem storeCodeword_symIn (f : List Bool) (s : State) : (storeCodeword f s).symIn = s.symIn := rfl
@[simp] theorem storeCodeword_requests (f : List Bool) (s : State) : (storeCodeword f s).requests = s.requests := rfl
@[simp] theorem storeCodeword_out (f : List Bool) (s : State) : (storeCodeword f s).out = s.out := rfl
@[simp] theorem storeCodeword_counts (f : List Bool) (s : State) : (storeCodeword f s).counts = s.counts := rfl
@[simp] theorem storeCodeword_freeIx (f : List Bool) (s : State) : (storeCodeword f s).freeIx = s.freeIx := rfl

end Sys2Proof.Machine
end

