-- ==== Sys2Proof/Laws/Ops.lean ====
section
/-! SUPPORT. What each shared operation can do, said once: the queue, the frame, the straps' checks, the dispatch of
outcomes, and the cursor. -/

namespace Sys2Proof.Machine

/-! ### The queue -/

theorem qPushAll_eq (ds : List Dibit) (s : State) : qPushAll ds s = { s with queue := s.queue ++ ds } := by
  induction ds generalizing s with
  | nil => simp [qPushAll]
  | cons d ds ih =>
    have h : qPushAll (d :: ds) s = qPushAll ds (qPush d s) := rfl
    rw [h, ih]
    simp [qPush]

/-- `QPop` gives nothing exactly on an empty queue. -/
theorem qPop_eq_none {s : State} : qPop s = none ↔ s.queue = [] := by
  unfold qPop
  split <;> simp_all

/-- What `QPop` gives, and what it leaves. -/
theorem qPop_eq_some {s t : State} {d : Dibit} :
    qPop s = some (d, t) ↔ ∃ rest, s.queue = d :: rest ∧ t = { s with queue := rest } := by
  unfold qPop
  split
  · simp_all
  · rename_i x rest h
    constructor
    · intro e
      obtain ⟨rfl, rfl⟩ : x = d ∧ { s with queue := rest } = t := by simpa using e
      exact ⟨rest, h, rfl⟩
    · rintro ⟨r, hr, rfl⟩
      obtain ⟨rfl, rfl⟩ : x = d ∧ rest = r := by simpa [h] using hr
      rfl

/-! ### The frame buffer -/

theorem frameBit_of_lt {f : List Bool} {i : Nat} (h : i < f.length) : frameBit f i = .ok f[i] := by
  simp [frameBit, h]

theorem frameSet_of_lt {f : List Bool} {i : Nat} (b : Bool) (h : i < f.length) : frameSet f i b = .ok (f.set i b) := by
  simp [frameSet, h]

@[simp] theorem frameClear_length (c : Cfg) : (frameClear c).length = c.frameBits := by simp [frameClear]

/-! ### Outcomes -/

/-- A command answers a next state exactly when the block is not FAILED and the command's own effect gives one. -/
theorem unlessFailed_next {s t : State} {r : Except Refusal State} :
    unlessFailed s r = .next t ↔ s.fail = false ∧ r = .ok t := by
  unfold unlessFailed
  cases s.fail <;> cases r <;> simp

@[simp] theorem unlessFailed_of_fail {s : State} (r : Except Refusal State) (h : s.fail = true) :
    unlessFailed s r = .refused .blockFailed := by simp [unlessFailed, h]

@[simp] theorem unlessFailed_ok {s : State} (t : State) (h : s.fail = false) : unlessFailed s (.ok t) = .next t := by
  simp [unlessFailed, h]

/-! ### The straps' checks -/

/-- The checks pass exactly when all five conditions of 70 R186 hold. -/
theorem checkStraps_eq_none {x : Straps} :
    checkStraps x = none ↔
      (x.phaseCount = 8 ∧ x.waveCount = 64 ∧ 1 ≤ x.sps) ∧ x.nthresh = 4 ∧ (1 ≤ x.d ∧ x.d ≤ x.sps) ∧
        (x.frameBits % 2 = 0 ∧ 64 ≤ x.frameBits ∧ ∀ i ∈ x.zeroPos, (i : Int) < x.frameBits) ∧
        realLess Config.namedReals x.gain (.rat 0) = false := by
  unfold checkStraps
  constructor
  · intro h
    split at h <;> try contradiction
    split at h <;> try contradiction
    split at h <;> try contradiction
    split at h <;> try contradiction
    split at h <;> try contradiction
    rename_i h1 h2 h3 h4 h5
    simp only [not_or, not_not, not_lt, gt_iff_lt, List.any_eq_true, decide_eq_true_eq, not_exists, not_and, ge_iff_le,
      not_le, ne_eq] at h1 h2 h3 h4
    exact ⟨⟨h1.1, h1.2.1, by omega⟩, h2, ⟨by omega, h3.2⟩, ⟨h4.1, h4.2.1, h4.2.2⟩, by simpa using h5⟩
  · rintro ⟨⟨h1, h2, h3⟩, h4, ⟨h5, h6⟩, ⟨h7, h8, h9⟩, h10⟩
    have h11 : ¬ (x.zeroPos.any (fun i => decide ((i : Int) ≥ x.frameBits)) = true) := by
      simp only [List.any_eq_true, decide_eq_true_eq, not_exists, not_and]
      intro i hi
      have := h9 i hi
      omega
    rw [if_neg (by omega), if_neg (by omega), if_neg (by omega), if_neg, if_neg (by simp [h10])]
    rintro (h | h | h)
    · omega
    · omega
    · exact h11 h

/-- A reported code is one of the five (60 R166). -/
theorem checkStraps_code {x : Straps} {code : BitVec 4} (h : checkStraps x = some code) :
    1 ≤ code.toNat ∧ code.toNat ≤ 5 := by
  unfold checkStraps at h
  repeat' split at h
  all_goals first
    | contradiction
    | (obtain rfl : _ = code := by simpa using h
       decide)

/-- Straps that passed the checks are latched exactly. -/
theorem latchStraps_legal {x : Straps} (h : checkStraps x = none) : Legal (latchStraps x) := by
  obtain ⟨⟨h1, h2, h3⟩, h4, ⟨h5, h6⟩, ⟨h7, h8, h9⟩, h10⟩ := checkStraps_eq_none.mp h
  refine ⟨?_, ?_, ?_, ?_, ?_, ?_, ?_, ?_, ?_, h10⟩ <;> simp only [latchStraps]
  case refine_9 =>
    intro i hi
    have := h9 i hi
    omega
  all_goals omega

/-! ### The cursor -/

/-- The cursor after a ROM sample. -/
def nextCursor (s : State) : Nat :=
  if s.cursor + s.cfg.d ≥ s.cfg.sps then s.cursor + s.cfg.d - s.cfg.sps else s.cursor + s.cfg.d

/-- Advancing writes `CURSOR` and, at the end of a symbol, clears `ACT_V`; nothing else. -/
theorem advanceCursor_eq (s : State) :
    advanceCursor s = { s with cursor := nextCursor s, actV := s.actV && decide (s.cursor + s.cfg.d < s.cfg.sps) } := by
  unfold advanceCursor nextCursor
  by_cases h : s.cursor + s.cfg.d ≥ s.cfg.sps
  · have h' : ¬ (s.cursor + s.cfg.d < s.cfg.sps) := by omega
    simp [h, h', clearActive]
  · have h' : s.cursor + s.cfg.d < s.cfg.sps := by omega
    simp [h, h']

/-- One subtraction brings the cursor below `SPS` (41 R97 a). -/
theorem nextCursor_lt {s : State} (hc : s.cursor < s.cfg.sps) (hd : s.cfg.d ≤ s.cfg.sps) :
    nextCursor s < s.cfg.sps := by
  unfold nextCursor
  split <;> omega

/-! ### Operand arithmetic -/

/-- The comparison a step computes is the comparison of the real numbers (44 R162). -/
@[simp] theorem realLess_iff (N : NamedReals) (a b : RealNum) :
    realLess N a b = true ↔ realValue N a < realValue N b := by
  unfold realValue
  cases a <;> cases b <;> first
    | exact N.less_iff _ _
    | simp [realLess, RealNum.valueWith]

@[simp] theorem realValue_rat (N : NamedReals) (q : Rat) : realValue N (.rat q) = (q : ℝ) := rfl

@[simp] theorem realValue_named (N : NamedReals) (k : Nat) : realValue N (.named k) = N.value k := rfl

theorem realLess_eq_false (N : NamedReals) (a b : RealNum) :
    realLess N a b = false ↔ realValue N b ≤ realValue N a := by
  rw [← Bool.not_eq_true, realLess_iff, not_lt]

/-- The phase sum is the residue in 0 to 7 (41 R96). -/
theorem addPhase_toNat (p : BitVec 3) (inc : Int) : ((addPhase p inc).toNat : Int) = ((p.toNat : Int) + inc) % 8 := by
  unfold addPhase
  rw [BitVec.toNat_ofInt]
  have h : 0 ≤ ((p.toNat : Int) + inc) % 8 := by omega
  simpa using Int.toNat_of_nonneg h

/-- `SR` after a shift, as a number (41 R95). -/
theorem shiftInDibit_sr (v : BitVec 6) (d : Dibit) : (shiftInDibit v d).toNat = (4 * v.toNat + d.toNat) % 64 := by
  revert v d
  decide

end Sys2Proof.Machine
end

