-- ==== Sys2Proof/Laws/FrameAssembler.lean ====
section
/-! SUPPORT. What the steps of APPCW give, said once. -/

namespace Sys2Proof.Machine

@[simp] theorem encodeParams_length (P : FramePrims) (c : Cfg) (u : Params) :
    (encodeParams P c u).length = c.cwBits := by simp [encodeParams]

@[simp] theorem interleave_length (P : FramePrims) (c : Cfg) (f cw : List Bool) (pos : Nat) :
    (interleave P c f cw pos).length = c.frameBits := by simp [interleave]

@[simp] theorem setSync_length (P : FramePrims) (c : Cfg) (f : List Bool) (hw : BitVec 64) :
    (setSync P c f hw).length = c.frameBits := by simp [setSync]

/-- Zeroing in range answers: every position listed is 0, every other as before (43 R146). -/
theorem zeroPositions_spec {l : List Nat} {f : List Bool} (h : ∀ i ∈ l, i < f.length) :
    ∃ g, zeroPositions l f = .ok g ∧ g.length = f.length ∧
      ∀ i, i < f.length → g[i]? = if i ∈ l then some false else f[i]? := by
  induction l generalizing f with
  | nil => exact ⟨f, rfl, rfl, by simp⟩
  | cons a l ih =>
    have ha : a < f.length := h a (by simp)
    obtain ⟨g, hg, hl, he⟩ := ih (f := f.set a false) (by simpa using fun i hi => h i (by simp [hi]))
    refine ⟨g, by simp [zeroPositions, frameSet_of_lt false ha, hg], by simpa using hl, fun i hi => ?_⟩
    rw [he i (by simpa using hi)]
    by_cases hil : i ∈ l
    · simp [hil]
    · by_cases hia : i = a
      · subst hia
        simp [hil, hi]
      · simp [hil, hia, Ne.symm hia]

/-- The dibits of a frame with room for them: as many as asked, each the pair of its elements (43 R147). -/
theorem frameDibits_spec {f : List Bool} (j n : Nat) (h : 2 * (j + n) ≤ f.length) :
    ∃ ds, frameDibits f j n = .ok ds ∧ ds.length = n ∧
      ∀ i, i < n → ∃ hi lo, f[2 * (j + i)]? = some hi ∧ f[2 * (j + i) + 1]? = some lo ∧ ds[i]? = some (dibitOf hi lo) := by
  induction n generalizing j with
  | zero => exact ⟨[], rfl, rfl, by simp⟩
  | succ n ih =>
    obtain ⟨ds, hd, hl, he⟩ := ih (j + 1) (by omega)
    have h0 : 2 * j < f.length := by omega
    have h1 : 2 * j + 1 < f.length := by omega
    refine ⟨dibitOf f[2 * j] f[2 * j + 1] :: ds, ?_, by simp [hl], fun i hi => ?_⟩
    · simp [frameDibits, frameBit_of_lt h0, frameBit_of_lt h1, hd]
    · cases i with
      | zero => exact ⟨f[2 * j], f[2 * j + 1], by simp [h0], by simp [h1], by simp⟩
      | succ i =>
        obtain ⟨a, b, ha, hb, hab⟩ := he i (by omega)
        have e : j + (i + 1) = j + 1 + i := by omega
        exact ⟨a, b, by rw [e]; exact ha, by rw [e]; exact hb, by simpa using hab⟩

theorem dibitOf_toNat (hi lo : Bool) : (dibitOf hi lo).toNat = 2 * hi.toNat + lo.toNat := by
  cases hi <;> cases lo <;> rfl

/-- A unit of a legal configuration is `FRAME_BITS / 2` dibits, whatever the frame. -/
theorem unitDibits_length {P : FramePrims} {c : Cfg} (hc : Legal c) (unit : Nat) (f : List Bool) :
    ∃ ds, unitDibits P c unit f = .ok ds ∧ ds.length = c.frameBits / 2 := by
  obtain ⟨_, _, _, _, _, _, _, _, hz, _⟩ := hc
  obtain ⟨g, hg, hl, _⟩ := zeroPositions_spec (l := c.zeroPos) (f := setSync P c f (headerWord c unit)) (by simpa using hz)
  obtain ⟨ds, hd, hdl, _⟩ := frameDibits_spec (f := g) 0 (c.frameBits / 2) (by rw [hl]; simp; omega)
  exact ⟨ds, by simp [unitDibits, hg, hd], hdl⟩

/-- A unit finished: the queue longer by the unit, the counters stepped, the frame cleared, nothing else. -/
theorem finishUnit_eq (ds : List Dibit) (s : State) :
    finishUnit ds s =
      { s with queue := s.queue ++ ds, cwCount := 0, unit := s.unit + 1, frame := List.replicate s.cfg.frameBits false } := by
  simp [finishUnit, qPushAll_eq, frameClear]

/-- Everything an APPCW can do: a codeword stored, or the ninth with its unit. -/
theorem appendCodeword_eq_ok {P : FramePrims} {u : Params} {s t : State} (h : appendCodeword P u s = .ok t) :
    (s.cwCount.toNat < 8 ∧
      t = storeCodeword (interleave P s.cfg s.frame (encodeParams P s.cfg u) s.cwCount.toNat) s) ∨
    (s.cwCount.toNat = 8 ∧ ∃ ds,
      unitDibits P s.cfg s.unit (interleave P s.cfg s.frame (encodeParams P s.cfg u) 8) = .ok ds ∧
      t = { s with
        queue := s.queue ++ ds, cwCount := 0, unit := s.unit + 1, frame := List.replicate s.cfg.frameBits false }) := by
  unfold appendCodeword Config.cwPerUnit at h
  split at h
  · cases h
  · simp only at h
    split at h
    · rename_i h8
      have h8' : s.cwCount.toNat = 8 := by omega
      split at h
      · rename_i ds hds
        rw [h8'] at hds
        obtain rfl : finishUnit ds _ = t := by simpa using h
        exact .inr ⟨h8', ds, hds, by simp [finishUnit_eq, storeCodeword]⟩
      · cases h
    · obtain rfl : storeCodeword _ s = t := by simpa using h
      exact .inl ⟨by omega, rfl⟩

/-- APPCW answers from a state in range with a vector within its widths (60 R167). -/
theorem appcwWith_answers {P : FramePrims} {s : State} (hs : s.InRange) (hp : Params.fits s.cfg.paramW s.param = true) :
    ∃ t, appcwWith P s = .ok t := by
  obtain ⟨hl, _, hcw, _⟩ := hs
  have h9 : ¬ s.cwCount.toNat ≥ Config.cwPerUnit := by simp only [Config.cwPerUnit]; omega
  simp only [appcwWith, paramOperand, hp, if_true, appendCodeword, if_neg h9]
  split
  · obtain ⟨ds, hd, _⟩ := unitDibits_length (P := P) hl s.unit
      (interleave P s.cfg s.frame (encodeParams P s.cfg s.param) s.cwCount.toNat)
    exact ⟨_, by rw [hd]⟩
  · exact ⟨_, rfl⟩

theorem appcwWith_eq_ok {P : FramePrims} {s t : State} :
    appcwWith P s = .ok t ↔ Params.fits s.cfg.paramW s.param = true ∧ appendCodeword P s.param s = .ok t := by
  unfold appcwWith paramOperand
  by_cases hp : Params.fits s.cfg.paramW s.param = true <;> simp [hp]

end Sys2Proof.Machine
end

