-- ==== Sys2Proof/Laws/PerInstr.lean ====
section
/-! SUPPORT. Statements about every command as syntax, one lemma per constructor. -/

namespace Sys2Proof.Laws.SelectsRow

/-- The word of a command selects its row of the opcode map: `word & mask = match` (30 R63). -/
def Statement (i : Instr) : Prop := encode i &&& rowMask i = rowMatch i

theorem pushd (d : BitVec 2) : Statement (.pushd d) := by
  unfold Statement
  revert d
  decide

theorem appcw : Statement .appcw := by
  unfold Statement
  decide

theorem produce (n : BitVec 12) : Statement (.produce n) := by
  unfold Statement encode rowMask rowMatch
  apply BitVec.eq_of_getLsbD_eq
  intro i hi
  rw [BitVec.getLsbD_and, BitVec.getLsbD_append]
  interval_cases i <;> simp

theorem mute (m : BitVec 1) : Statement (.mute m) := by
  unfold Statement
  revert m
  decide

theorem classify : Statement .classify := by
  unfold Statement
  decide

end Sys2Proof.Laws.SelectsRow
end

