-- ==== Sys2Proof/Laws/Sequencer.lean ====
section
/-! SUPPORT. What a tick and a run of ticks can do, said once. -/

namespace Sys2Proof.Machine

/-- The ROM sample the active entry gives at the cursor. -/
def romOf (s : State) : Sample :=
  if s.cfg.complex then .romC s.actP s.actW s.cursor else .romR s.actW8 s.cursor

/-- The symbol boundary of the variant selected. -/
def boundaryOf (d : Dibit) (s : State) : State := if s.cfg.complex then boundaryC d s else boundaryR d s

/-- The state with its head dibit popped and its boundary done. -/
def enterSymbol (d : Dibit) (rest : List Dibit) (s : State) : State := boundaryOf d { s with queue := rest }

@[simp] theorem enterSymbol_cursor (d : Dibit) (rest : List Dibit) (s : State) :
    (enterSymbol d rest s).cursor = s.cursor := by unfold enterSymbol boundaryOf; split <;> rfl

@[simp] theorem enterSymbol_cfg (d : Dibit) (rest : List Dibit) (s : State) :
    (enterSymbol d rest s).cfg = s.cfg := by unfold enterSymbol boundaryOf; split <;> rfl

@[simp] theorem enterSymbol_actV (d : Dibit) (rest : List Dibit) (s : State) :
    (enterSymbol d rest s).actV = true := by unfold enterSymbol boundaryOf; split <;> rfl

@[simp] theorem enterSymbol_mute (d : Dibit) (rest : List Dibit) (s : State) :
    (enterSymbol d rest s).mute = s.mute := by unfold enterSymbol boundaryOf; split <;> rfl

@[simp] theorem enterSymbol_queue (d : Dibit) (rest : List Dibit) (s : State) :
    (enterSymbol d rest s).queue = rest := by unfold enterSymbol boundaryOf; split <;> rfl

/-! ### One tick -/

theorem tick_muted {s : State} (h : s.mute = true) : tick s = .ok (zeroOf s.cfg, qFlush s) := by
  unfold tick zeroOf
  cases hc : s.cfg.complex <;> simp [tickC, tickR, h]

theorem tick_underrun {s : State} (hm : s.mute = false) (ha : s.actV = false) (hq : s.queue = []) :
    tick s = .ok (zeroOf s.cfg, s) := by
  unfold tick zeroOf
  cases hc : s.cfg.complex <;> simp [tickC, tickR, hm, ha, qPop, hq]

theorem tick_emitting {s : State} (hm : s.mute = false) (ha : s.actV = true) (hk : s.cursor ≤ s.cfg.sps) :
    tick s = .ok (romOf s, advanceCursor s) := by
  unfold tick romOf
  cases hc : s.cfg.complex <;> simp [tickC, tickR, hm, ha, emitRomC, emitRomR, romRead, romReadR, hk]

theorem tick_boundary {s : State} {d : Dibit} {rest : List Dibit} (hm : s.mute = false) (ha : s.actV = false)
    (hq : s.queue = d :: rest) (hk : s.cursor ≤ s.cfg.sps) :
    tick s = .ok (romOf (enterSymbol d rest s), advanceCursor (enterSymbol d rest s)) := by
  unfold tick romOf enterSymbol boundaryOf
  cases hc : s.cfg.complex <;>
    simp [tickC, tickR, hm, ha, qPop, hq, emitRomC, emitRomR, romRead, romReadR, hk, boundaryC, boundaryR, hc]

/-- A tick that would read the ROM above `SPS` is refused (20 R47). -/
theorem tick_out_of_range {s : State} (hm : s.mute = false) (ha : s.actV = true ∨ s.queue ≠ [])
    (hk : s.cfg.sps < s.cursor) : tick s = .error .romIndexOutOfRange := by
  have hk' : ¬ s.cursor ≤ s.cfg.sps := by omega
  unfold tick
  cases hv : s.actV with
  | true => cases hc : s.cfg.complex <;> simp [tickC, tickR, hm, hv, emitRomC, emitRomR, romRead, romReadR, hk']
  | false =>
    obtain ⟨d, rest, hq⟩ : ∃ d rest, s.queue = d :: rest := by
      cases h : s.queue with
      | nil => simp [hv, h] at ha
      | cons d rest => exact ⟨d, rest, rfl⟩
    cases hc : s.cfg.complex <;>
      simp [tickC, tickR, hm, hv, qPop, hq, emitRomC, emitRomR, romRead, romReadR, hk', boundaryC, boundaryR]

/-- Everything a tick can do (41 R106): MUTED, underrun, a sample of the active entry, or a boundary with its first
sample. -/
theorem tick_cases {s t : State} {x : Sample} (h : tick s = .ok (x, t)) :
    (s.mute = true ∧ x = zeroOf s.cfg ∧ t = qFlush s) ∨
    (s.mute = false ∧ s.actV = false ∧ s.queue = [] ∧ x = zeroOf s.cfg ∧ t = s) ∨
    (s.mute = false ∧ s.actV = true ∧ s.cursor ≤ s.cfg.sps ∧ x = romOf s ∧ t = advanceCursor s) ∨
    (∃ d rest, s.mute = false ∧ s.actV = false ∧ s.queue = d :: rest ∧ s.cursor ≤ s.cfg.sps ∧
      x = romOf (enterSymbol d rest s) ∧ t = advanceCursor (enterSymbol d rest s)) := by
  cases hm : s.mute with
  | true =>
    rw [tick_muted hm] at h
    obtain ⟨rfl, rfl⟩ : zeroOf s.cfg = x ∧ qFlush s = t := by simpa using h
    exact .inl ⟨rfl, rfl, rfl⟩
  | false =>
    cases ha : s.actV with
    | true =>
      by_cases hk : s.cursor ≤ s.cfg.sps
      · rw [tick_emitting hm ha hk] at h
        obtain ⟨rfl, rfl⟩ : romOf s = x ∧ advanceCursor s = t := by simpa using h
        exact .inr (.inr (.inl ⟨rfl, rfl, hk, rfl, rfl⟩))
      · rw [tick_out_of_range hm (.inl ha) (by omega)] at h
        cases h
    | false =>
      cases hq : s.queue with
      | nil =>
        rw [tick_underrun hm ha hq] at h
        obtain ⟨rfl, rfl⟩ : zeroOf s.cfg = x ∧ s = t := by simpa using h
        exact .inr (.inl ⟨rfl, rfl, rfl, rfl, rfl⟩)
      | cons d rest =>
        by_cases hk : s.cursor ≤ s.cfg.sps
        · rw [tick_boundary hm ha hq hk] at h
          obtain ⟨rfl, rfl⟩ : _ = x ∧ _ = t := by simpa using h
          exact .inr (.inr (.inr ⟨d, rest, rfl, rfl, rfl, hk, rfl, rfl⟩))
        · rw [tick_out_of_range hm (.inr (by simp [hq])) (by omega)] at h
          cases h

/-! ### What a tick leaves alone -/

/-- `t` differs from `s` in the sequencer's registers and the queue at most (10 R32, column PRODUCE). -/
def SequencerOnly (s t : State) : Prop :=
  t = { s with phase := t.phase, sr := t.sr, sr8 := t.sr8, prev := t.prev, cursor := t.cursor, actV := t.actV,
               actP := t.actP, actW := t.actW, actW8 := t.actW8, queue := t.queue }

theorem SequencerOnly.refl (s : State) : SequencerOnly s s := rfl

theorem SequencerOnly.trans {s t u : State} (h : SequencerOnly s t) (k : SequencerOnly t u) : SequencerOnly s u := by
  unfold SequencerOnly at *
  rw [k, h]

theorem SequencerOnly.qFlush (s : State) : SequencerOnly s (qFlush s) := rfl

theorem SequencerOnly.advanceCursor (s : State) : SequencerOnly s (advanceCursor s) := by
  rw [advanceCursor_eq]
  rfl

theorem SequencerOnly.enterSymbol (d : Dibit) (rest : List Dibit) (s : State) :
    SequencerOnly s (enterSymbol d rest s) := by
  unfold Machine.enterSymbol boundaryOf
  split <;> rfl

theorem tick_sequencerOnly {s t : State} {x : Sample} (h : tick s = .ok (x, t)) : SequencerOnly s t := by
  obtain ⟨_, _, rfl⟩ | ⟨_, _, _, _, rfl⟩ | ⟨_, _, _, _, rfl⟩ | ⟨d, rest, _, _, _, _, _, rfl⟩ := tick_cases h
  · exact .qFlush s
  · exact .refl _
  · exact .advanceCursor s
  · exact (SequencerOnly.enterSymbol d rest s).trans (.advanceCursor _)

/-! ### Runs of ticks -/

theorem ticks_succ_eq_ok {n : Nat} {s t : State} {xs : List Sample} :
    ticks (n + 1) s = .ok (xs, t) ↔
      ∃ x s' ys, tick s = .ok (x, s') ∧ ticks n s' = .ok (ys, t) ∧ xs = x :: ys := by
  constructor
  · intro h
    simp only [ticks] at h
    split at h
    · cases h
    · rename_i x s' hx
      split at h
      · cases h
      · rename_i ys u hy
        obtain ⟨rfl, rfl⟩ : x :: ys = xs ∧ u = t := by simpa using h
        exact ⟨x, s', ys, hx, hy, rfl⟩
  · rintro ⟨x, s', ys, hx, hy, rfl⟩
    simp [ticks, hx, hy]

/-- An induction over the ticks of a request: what one tick keeps, `n` ticks keep. -/
theorem ticks_induction {P : State → Prop} (step : ∀ s t x, tick s = .ok (x, t) → P s → P t) {n : Nat} {s t : State}
    {xs : List Sample} (h : ticks n s = .ok (xs, t)) (hs : P s) : P t := by
  induction n generalizing s xs with
  | zero =>
    obtain ⟨_, rfl⟩ : [] = xs ∧ s = t := by simpa [ticks] using h
    exact hs
  | succ n ih =>
    obtain ⟨x, s', ys, hx, hy, _⟩ := ticks_succ_eq_ok.mp h
    exact ih hy (step s s' x hx hs)

theorem ticks_sequencerOnly {n : Nat} {s t : State} {xs : List Sample} (h : ticks n s = .ok (xs, t)) :
    SequencerOnly s t :=
  ticks_induction (P := SequencerOnly s) (fun _ _ _ ht hs => hs.trans (tick_sequencerOnly ht)) h (.refl s)

/-- Exactly one sample a tick (41 R97 d). -/
theorem ticks_length {n : Nat} {s t : State} {xs : List Sample} (h : ticks n s = .ok (xs, t)) : xs.length = n := by
  induction n generalizing s xs with
  | zero =>
    obtain ⟨rfl, _⟩ : [] = xs ∧ s = t := by simpa [ticks] using h
    rfl
  | succ n ih =>
    obtain ⟨x, s', ys, _, hy, rfl⟩ := ticks_succ_eq_ok.mp h
    simp [ih hy]

/-- Ticks add up: the ground of 41 R101. -/
theorem ticks_add {a b : Nat} {s t u : State} {xs ys : List Sample} (h : ticks a s = .ok (xs, t))
    (k : ticks b t = .ok (ys, u)) : ticks (a + b) s = .ok (xs ++ ys, u) := by
  induction a generalizing s xs with
  | zero =>
    obtain ⟨rfl, rfl⟩ : [] = xs ∧ s = t := by simpa [ticks] using h
    simpa using k
  | succ a ih =>
    obtain ⟨x, s', zs, hx, hz, rfl⟩ := ticks_succ_eq_ok.mp h
    have hadd : a + 1 + b = (a + b) + 1 := by omega
    rw [hadd]
    exact ticks_succ_eq_ok.mpr ⟨x, s', zs ++ ys, hx, ih hz, rfl⟩

/-- A tick in range answers (20 R41: a call outside the ranges cannot happen). -/
theorem tick_answers {s : State} (hk : s.cursor ≤ s.cfg.sps) : ∃ x t, tick s = .ok (x, t) := by
  cases hm : s.mute with
  | true => exact ⟨_, _, tick_muted hm⟩
  | false =>
    cases ha : s.actV with
    | true => exact ⟨_, _, tick_emitting hm ha hk⟩
    | false =>
      cases hq : s.queue with
      | nil => exact ⟨_, _, tick_underrun hm ha hq⟩
      | cons d rest => exact ⟨_, _, tick_boundary hm ha hq hk⟩

/-- A tick keeps the cursor below `SPS` (10 R17). -/
theorem tick_cursor_lt {s t : State} {x : Sample} (h : tick s = .ok (x, t)) (hd : s.cfg.d ≤ s.cfg.sps)
    (hc : s.cursor < s.cfg.sps) : t.cursor < t.cfg.sps := by
  obtain ⟨_, _, rfl⟩ | ⟨_, _, _, _, rfl⟩ | ⟨_, _, _, _, rfl⟩ | ⟨d, rest, _, _, _, _, _, rfl⟩ := tick_cases h
  · simpa using hc
  · exact hc
  · rw [advanceCursor_eq]
    exact nextCursor_lt hc hd
  · rw [advanceCursor_eq]
    exact nextCursor_lt (by simpa using hc) (by simpa using hd)

/-- A request of any length answers from a state in range, and leaves the cursor in range. -/
theorem ticks_answer {s : State} (n : Nat) (hd : s.cfg.d ≤ s.cfg.sps) (hc : s.cursor < s.cfg.sps) :
    ∃ xs t, ticks n s = .ok (xs, t) ∧ t.cursor < t.cfg.sps ∧ t.cfg = s.cfg := by
  induction n generalizing s with
  | zero => exact ⟨[], s, rfl, hc, rfl⟩
  | succ n ih =>
    obtain ⟨x, s', hx⟩ := tick_answers (le_of_lt hc)
    have hcfg : s'.cfg = s.cfg := by rw [tick_sequencerOnly hx]
    obtain ⟨xs, t, ht, hct, hcfg'⟩ := ih (s := s') (by rw [hcfg]; exact hd) (tick_cursor_lt hx hd hc)
    exact ⟨x :: xs, t, ticks_succ_eq_ok.mpr ⟨x, s', xs, hx, ht, rfl⟩, hct, hcfg'.trans hcfg⟩

/-! ### PRODUCE -/

/-- Everything PRODUCE can do: its ticks, from the state flushed when muted, then the samples out and the count
returned. -/
theorem produceSamples_eq_ok {n : Nat} {s t : State} :
    produceSamples n s = .ok t ↔
      ∃ xs u, ticks n (flushIfMuted s) = .ok (xs, u) ∧ t = emitSamples n xs u := by
  unfold produceSamples
  constructor
  · intro h
    split at h
    · rename_i xs u hx
      obtain rfl : emitSamples n xs u = t := by simpa using h
      exact ⟨xs, u, hx, rfl⟩
    · cases h
  · rintro ⟨xs, u, hx, rfl⟩
    simp [hx]

theorem execProduce_next {n : BitVec 12} {s t : State} :
    execProduce n s = .next t ↔
      s.fail = false ∧ ∃ xs u, ticks n.toNat (flushIfMuted s) = .ok (xs, u) ∧ t = emitSamples n.toNat xs u := by
  unfold execProduce countOperand
  rw [unlessFailed_next, produceSamples_eq_ok]

theorem flushIfMuted_of_not_mute {s : State} (h : s.mute = false) : flushIfMuted s = s := by simp [flushIfMuted, h]

theorem flushIfMuted_of_mute {s : State} (h : s.mute = true) : flushIfMuted s = qFlush s := by simp [flushIfMuted, h]

theorem flushIfMuted_sequencerOnly (s : State) : SequencerOnly s (flushIfMuted s) := by
  unfold flushIfMuted
  split
  · exact .qFlush s
  · exact .refl s

theorem flushIfMuted_eq (s : State) : flushIfMuted s = { s with queue := if s.mute then [] else s.queue } := by
  unfold flushIfMuted
  split <;> rfl

/-- A request outside FAILED whose ticks answer is performed. -/
theorem execProduce_of_ticks {n : BitVec 12} {s u : State} {xs : List Sample} (hf : s.fail = false)
    (h : ticks n.toNat (flushIfMuted s) = .ok (xs, u)) : execProduce n s = .next (emitSamples n.toNat xs u) :=
  execProduce_next.mpr ⟨hf, xs, u, h, rfl⟩

theorem ticks_one {s u : State} {x : Sample} (h : tick s = .ok (x, u)) : ticks 1 s = .ok ([x], u) := by
  simp [ticks, h]

/-! ### The mode -/

theorem mode_eq_idle {s : State} : s.mode = .idle ↔ s.mute = false ∧ s.actV = false := by
  unfold State.mode
  cases s.mute <;> cases s.actV <;> simp

theorem mode_eq_emitting {s : State} : s.mode = .emitting ↔ s.mute = false ∧ s.actV = true := by
  unfold State.mode
  cases s.mute <;> cases s.actV <;> simp

theorem mode_eq_muted {s : State} : s.mode = .muted ↔ s.mute = true := by
  unfold State.mode
  cases s.mute <;> cases s.actV <;> simp

/-! ### Runs in which nothing moves -/

theorem ticks_muted {n : Nat} {s : State} (h : s.mute = true) (hq : s.queue = []) :
    ticks n s = .ok (List.replicate n (zeroOf s.cfg), s) := by
  have e : qFlush s = s := by rw [qFlush, ← hq]
  induction n with
  | zero => rfl
  | succ n ih => exact ticks_succ_eq_ok.mpr ⟨_, s, _, by rw [tick_muted h, e], ih, rfl⟩

theorem ticks_underrun {n : Nat} {s : State} (h : s.mute = false) (ha : s.actV = false) (hq : s.queue = []) :
    ticks n s = .ok (List.replicate n (zeroOf s.cfg), s) := by
  induction n with
  | zero => rfl
  | succ n ih => exact ticks_succ_eq_ok.mpr ⟨_, s, _, by rw [tick_underrun h ha hq], ih, rfl⟩

/-! ### The variant not selected -/

/-- A tick keeps the registers of the other variant (10 R29). -/
theorem tick_variant {s t : State} {x : Sample} (h : tick s = .ok (x, t)) :
    (s.cfg.complex = true → t.sr8 = s.sr8 ∧ t.actW8 = s.actW8) ∧
    (s.cfg.complex = false →
      t.phase = s.phase ∧ t.sr = s.sr ∧ t.prev = s.prev ∧ t.actP = s.actP ∧ t.actW = s.actW) := by
  obtain ⟨_, _, rfl⟩ | ⟨_, _, _, _, rfl⟩ | ⟨_, _, _, _, rfl⟩ | ⟨d, rest, _, _, _, _, _, rfl⟩ := tick_cases h
  · simp
  · simp
  · simp [advanceCursor_eq]
  · rw [advanceCursor_eq]
    unfold enterSymbol boundaryOf
    constructor <;> intro hc <;> simp [hc]

/-! ### Changes a tick does not see -/

/-- A change of the state that a tick does not see may be made before or after it. -/
theorem tick_commute {s t : State} {x : Sample} (f : State → State) (hcur : ∀ s, (f s).cursor = s.cursor)
    (hm : ∀ s, (f s).mute = s.mute) (ha : ∀ s, (f s).actV = s.actV) (hq : ∀ s, (f s).queue = s.queue)
    (hsps : ∀ s, (f s).cfg.sps = s.cfg.sps) (hz : ∀ s, zeroOf (f s).cfg = zeroOf s.cfg)
    (hfl : ∀ s, qFlush (f s) = f (qFlush s)) (hadv : ∀ s, advanceCursor (f s) = f (advanceCursor s))
    (hrom : ∀ v, v.cfg = s.cfg → romOf (f v) = romOf v)
    (hent : ∀ d rest, enterSymbol d rest (f s) = f (enterSymbol d rest s)) (h : tick s = .ok (x, t)) :
    tick (f s) = .ok (x, f t) := by
  obtain ⟨h1, rfl, rfl⟩ | ⟨h1, h2, h3, rfl, h5⟩ | ⟨h1, h2, h3, rfl, rfl⟩ | ⟨d, rest, h1, h2, h3, h4, rfl, rfl⟩ :=
    tick_cases h
  · rw [tick_muted (by rw [hm, h1]), hz, hfl]
  · subst h5
    rw [tick_underrun (by rw [hm, h1]) (by rw [ha, h2]) (by rw [hq, h3]), hz]
  · rw [tick_emitting (by rw [hm, h1]) (by rw [ha, h2]) (by rw [hcur, hsps]; exact h3), hrom _ rfl, hadv]
  · rw [tick_boundary (by rw [hm, h1]) (by rw [ha, h2]) (by rw [hq, h3]) (by rw [hcur, hsps]; exact h4), hent,
      hrom _ (by simp), hadv]

/-- The same for a run of ticks, where the change is unseen in the states that meet `Q`. -/
theorem ticks_commute (f : State → State) (Q : State → Prop) (hQ : ∀ s t x, tick s = .ok (x, t) → Q s → Q t)
    (hc : ∀ s t x, Q s → tick s = .ok (x, t) → tick (f s) = .ok (x, f t)) {n : Nat} {s t : State} {xs : List Sample}
    (hs : Q s) (h : ticks n s = .ok (xs, t)) : ticks n (f s) = .ok (xs, f t) := by
  induction n generalizing s xs with
  | zero =>
    obtain ⟨rfl, rfl⟩ : [] = xs ∧ s = t := by simpa [ticks] using h
    rfl
  | succ n ih =>
    obtain ⟨x, s', ys, hx, hy, rfl⟩ := ticks_succ_eq_ok.mp h
    exact ticks_succ_eq_ok.mpr ⟨x, f s', ys, hc _ _ _ hs hx, ih (hQ _ _ _ hx hs) hy, rfl⟩

end Sys2Proof.Machine
end

