-- ==== Sys2Proof/Laws/Slicer.lean ====
section
/-! SUPPORT. What the slicer asks of its numbers, said once: a band is a half-open interval, and two number domains
whose comparisons agree classify alike. -/

namespace Sys2Proof.Machine

/-- A band on real numbers (44 R156 a). -/
@[simp] theorem inBand_real (N : NamedReals) (lo hi s : RealNum) :
    inBand (realLess N) lo hi s = true ↔ realValue N lo ≤ realValue N s ∧ realValue N s < realValue N hi := by
  simp only [inBand, Bool.and_eq_true, Bool.not_eq_true', realLess_eq_false, realLess_iff]

/-- Numbers that compare alike classify alike. -/
theorem slice_congr {α β : Type} {f : α → α → Bool} {g : β → β → Bool} {z : α} {w : β} (φ : α → β)
    (h : ∀ a b, f a b = g (φ a) (φ b)) (hz : φ z = w) (t : Quad α) (s : α) :
    slice f z t s = slice g w (t.map φ) (φ s) := by
  simp [slice, inBand, Quad.map, h, hz]

end Sys2Proof.Machine
end

