-- ==== Sys2Proof/Laws/Step.lean ====
section
/-! SUPPORT. What a command and a step can do, said once; and what reset leaves. -/

namespace Sys2Proof.Machine

/-! ### Commands -/

/-- Everything a command that answers a next state can do, command by command. -/
theorem exec_cases {i : Instr} {s t : State} (h : exec i s = .next t) :
    s.fail = false ∧
      ((∃ d, i = .pushd d ∧ t = qPush d s) ∨
       (i = .appcw ∧ Params.fits s.cfg.paramW s.param = true ∧ appendCodeword (Config.framePrims s.cfg.externals) s.param s = .ok t) ∨
       (∃ n xs u, i = .produce n ∧ ticks n.toNat (flushIfMuted s) = .ok (xs, u) ∧ t = emitSamples n.toNat xs u) ∨
       (∃ m, i = .mute m ∧ t = muteControl (muteOperand m) s) ∨
       (i = .classify ∧ t = emitDibit (sliceReal Config.namedReals s.cfg.t s.symIn) s)) := by
  cases i with
  | pushd d =>
    have h' : execPushd d s = .next t := h
    unfold execPushd at h'
    obtain ⟨hf, ht⟩ := unlessFailed_next.mp h'
    exact ⟨hf, .inl ⟨d, rfl, by simpa [dibitOperand] using ht.symm⟩⟩
  | appcw =>
    have h' : execAppcw s = .next t := h
    unfold execAppcw at h'
    obtain ⟨hf, ht⟩ := unlessFailed_next.mp h'
    exact ⟨hf, .inr (.inl ⟨rfl, appcwWith_eq_ok.mp ht⟩)⟩
  | produce n =>
    obtain ⟨hf, xs, u, hx, ht⟩ := execProduce_next.mp h
    exact ⟨hf, .inr (.inr (.inl ⟨n, xs, u, rfl, hx, ht⟩))⟩
  | mute m =>
    have h' : execMute m s = .next t := h
    unfold execMute at h'
    obtain ⟨hf, ht⟩ := unlessFailed_next.mp h'
    exact ⟨hf, .inr (.inr (.inr (.inl ⟨m, rfl, by simpa using ht.symm⟩)))⟩
  | classify =>
    have h' : execClassify s = .next t := h
    unfold execClassify at h'
    obtain ⟨hf, ht⟩ := unlessFailed_next.mp h'
    exact ⟨hf, .inr (.inr (.inr (.inr ⟨rfl, by simpa [sampleOperand] using ht.symm⟩)))⟩

/-- In FAILED every command is refused (60 R170). -/
theorem exec_of_fail {s : State} (i : Instr) (h : s.fail = true) : exec i s = .refused .blockFailed := by
  cases i <;> simp [exec, execPushd, execAppcw, execProduce, execMute, execClassify, h]

/-- MUTE writes the flag, and the queue when asserting. -/
theorem muteControl_eq (m : Bool) (s : State) :
    muteControl m s = { s with mute := m, queue := if m then [] else s.queue } := by
  cases m <;> rfl

/-- The fields no command writes: the configuration, the reset outcome, and the ports. -/
theorem exec_keeps_configuration {i : Instr} {s t : State} (h : exec i s = .next t) :
    t.cfg = s.cfg ∧ t.fail = s.fail ∧ t.errCode = s.errCode ∧ t.param = s.param ∧ t.symIn = s.symIn ∧
      t.requests = s.requests ∧ t.freeIx = s.freeIx := by
  obtain ⟨_, ⟨d, _, rfl⟩ | ⟨_, _, hk⟩ | ⟨n, xs, u, _, hx, rfl⟩ | ⟨m, _, rfl⟩ | ⟨_, rfl⟩⟩ := exec_cases h
  · simp
  · obtain ⟨_, rfl⟩ | ⟨_, ds, _, rfl⟩ := appendCodeword_eq_ok hk <;> simp
  · have hu := (flushIfMuted_sequencerOnly s).trans (ticks_sequencerOnly hx)
    rw [hu]
    simp [emitSamples]
  · simp [muteControl_eq]
  · simp

/-- A command leaves a state in range in range (10 R30). -/
theorem exec_keeps_inRange {i : Instr} {s t : State} (h : exec i s = .next t) (hs : s.InRange) : t.InRange := by
  obtain ⟨hcfg, _⟩ := exec_keeps_configuration h
  obtain ⟨hl, hc, hw, hfr⟩ := hs
  obtain ⟨_, ⟨d, _, rfl⟩ | ⟨_, _, hk⟩ | ⟨n, xs, u, _, hx, rfl⟩ | ⟨m, _, rfl⟩ | ⟨_, rfl⟩⟩ := exec_cases h
  · exact ⟨hl, hc, hw, hfr⟩
  · obtain ⟨h8, rfl⟩ | ⟨_, ds, _, rfl⟩ := appendCodeword_eq_ok hk
    · refine ⟨hl, hc, ?_, by simp⟩
      have h1 : (1 : BitVec 4).toNat = 1 := rfl
      simp only [storeCodeword_cwCount, BitVec.toNat_add, h1]
      omega
    · exact ⟨hl, hc, by simp, by simp⟩
  · have hd : s.cfg.d ≤ s.cfg.sps := hl.2.2.2.2.2.1
    have hu := (flushIfMuted_sequencerOnly s).trans (ticks_sequencerOnly hx)
    have key : u.cfg.d ≤ u.cfg.sps ∧ u.cursor < u.cfg.sps := by
      refine ticks_induction (P := fun v => v.cfg.d ≤ v.cfg.sps ∧ v.cursor < v.cfg.sps) ?_ hx ?_
      · intro v w x hv hp
        have hvw : w.cfg = v.cfg := by rw [tick_sequencerOnly hv]
        exact ⟨by rw [hvw]; exact hp.1, tick_cursor_lt hv hp.1 hp.2⟩
      · unfold flushIfMuted
        split
        · exact ⟨hd, hc⟩
        · exact ⟨hd, hc⟩
    have hcfgu : u.cfg = s.cfg := by rw [hu]
    have hcwu : u.cwCount = s.cwCount := by rw [hu]
    have hfru : u.frame = s.frame := by rw [hu]
    refine ⟨?_, ?_, ?_, ?_⟩ <;> simp only [emitSamples_cfg, emitSamples_cursor, emitSamples_cwCount, emitSamples_frame]
    · rw [hcfgu]
      exact hl
    · exact key.2
    · rw [hcwu]
      exact hw
    · rw [hfru, hcfgu]
      exact hfr
  · rw [muteControl_eq]
    exact ⟨hl, hc, hw, hfr⟩
  · exact ⟨hl, hc, hw, hfr⟩

/-! ### Reset -/

theorem resetBlock_of_ok {x : Straps} {s : State} (h : checkStraps x = none) : resetBlock x s = initialise x s := by
  simp [resetBlock, h]

theorem resetBlock_of_code {x : Straps} {s : State} {code : BitVec 4} (h : checkStraps x = some code) :
    resetBlock x s = raiseCfgError code s := by simp [resetBlock, h]

/-- A reset leaves the invariant, whatever the state before (70 R185). -/
theorem resetBlock_inv (x : Straps) (s : State) : (resetBlock x s).Inv := by
  cases h : checkStraps x with
  | none =>
    have hl := latchStraps_legal h
    rw [resetBlock_of_ok h]
    refine ⟨fun _ => ⟨⟨hl, ?_, by simp [initialise, State.initial], by simp [initialise, State.initial]⟩, rfl⟩, ?_⟩
    · show 0 < (latchStraps x).sps
      exact hl.2.2.1
    · intro hf
      exact absurd hf (by simp [initialise, State.initial])
  | some code =>
    rw [resetBlock_of_code h]
    exact ⟨fun hf => absurd hf (by simp [raiseCfgError]), fun _ => checkStraps_code h⟩

/-! ### Steps -/

/-- Everything a step that answers a next state can do. -/
theorem step_cases {s t : State} (h : step s = .next t) :
    (s.requests = [] ∧ t = s) ∨
    (∃ x rest, s.requests = .reset x :: rest ∧ t = resetBlock x (takeRequest rest s)) ∨
    (∃ c rest i, s.requests = .command c :: rest ∧ decode c.word = .ok i ∧
      exec i (latchPorts c (takeRequest rest s)) = .next t) := by
  unfold step at h
  split at h
  · rename_i hr
    obtain rfl : s = t := by simpa using h
    exact .inl ⟨hr, rfl⟩
  · rename_i x rest hr
    obtain rfl : resetBlock x (takeRequest rest s) = t := by simpa using h
    exact .inr (.inl ⟨x, rest, hr, rfl⟩)
  · rename_i c rest hr
    unfold performCommand at h
    split at h
    · rename_i i hi
      exact .inr (.inr ⟨c, rest, i, hr, hi, h⟩)
    · cases h

end Sys2Proof.Machine
end

