-- ==== Sys2Proof/Tests/Slice0.lean ====
section
/-! SUPPORT. The package's own tests: the checks on terms refuse ill-formed ones, words written out from the spec's
encodings decode to their commands, the spec's vectors (95) come out of one step each, and every statement's hypotheses
are met by a concrete state. Expected values are the spec's, not the model's. -/

namespace Sys2Proof.Tests

open Sys2Proof.Machine

/-! ### Helpers -/

/-- The next state of an outcome, if it is one. -/
def nextOf (o : Host.Outcome State Fault Refusal) : Option State :=
  match o with
  | .next t => some t
  | .fault _ => none
  | .refused _ => none

/-- The refusal of an outcome, if it is one. -/
def refusalOf (o : Host.Outcome State Fault Refusal) : Option Refusal :=
  match o with
  | .next _ => none
  | .fault _ => none
  | .refused r => some r

/-- TC1 with TF1 as it stands on the `RESET` port (95 part 2). -/
def tc1 : Straps :=
  { complex := true, floatOut := false, gain := .rat 1, d := 1, nthresh := 4,
    t := ⟨.rat (-2), .rat 0, .rat 2, .rat 4⟩,
    phaseCount := 8, waveCount := 64, sps := 4, phaseInc := ⟨1, 3, 7, 5⟩, frameBits := 84,
    syncWord0 := 0x1B00000000000000, syncWord1 := 0xE400000000000000, zeroPos := [65, 82, 83],
    cwBits := 2, paramW := ⟨1, 1, 1, 1, 1, 1, 1, 1⟩, externals := 0 }

/-- The reset state, configured by TC1, with decimation stride `d`. -/
def withStride (d : Nat) : State := { State.reset with cfg := { Config.resetCfg with d := d } }

/-- The reset state of the real variant (TR1, TR3). -/
def realWithStride (d : Nat) : State :=
  { State.reset with cfg := { Config.resetCfg with complex := false, d := d } }

/-- The reset state with a queue. -/
def queued (ds : List Dibit) (s : State) : State := { s with queue := ds }

/-- The parameter vector `1,1,0,0,0,0,0,0` of V30. -/
def ones : Params := ⟨1, 1, 0, 0, 0, 0, 0, 0⟩

/-- The machine's slicer on rationals. -/
def sliceRat (t : Quad Rat) (x : Rat) : Dibit := sliceReal Config.namedReals (t.map .rat) (.rat x)

/-- A state with thresholds and a sample. -/
def slicing (t : Quad Rat) (x : Rat) : State :=
  { State.reset with cfg := { Config.resetCfg with t := t.map .rat }, symIn := .rat x }

/-- A state with one request waiting. -/
def waiting (r : Request) : State := { State.reset with requests := [r] }

/-- A block that failed reset with code 3 (V64). -/
def failed : State := { State.reset with fail := true, errCode := 3 }

/-- The external primitives of TF1 (95 part 2). -/
def tf1 : FramePrims :=
  { encodeBit := fun u i => if i = 0 then decide (u.u0 % 2 = 1) else decide (u.u1 % 2 = 1)
    interleaveBit := fun f cw pos i =>
      if i = 64 + 2 * pos then cw.getD 0 false else if i = 65 + 2 * pos then cw.getD 1 false else f.getD i false
    setSyncBit := fun f hw i => if i < 64 then hw.getLsbD (63 - i) else f.getD i false }

/-- The samples of a list of ROM indices of the complex variant. -/
def romSamples (l : List (BitVec 3 × BitVec 6 × Nat)) : List Emission := l.map fun x => .sample (.romC x.1 x.2.1 x.2.2)

/-- The samples of a list of ROM indices of the real variant. -/
def romSamplesR (l : List (BitVec 8 × Nat)) : List Emission := l.map fun x => .sample (.romR x.1 x.2)

/-! ### WellFormed refuses ill-formed terms (30 R65, R74, 42 R132) -/

theorem test_fits_takes_the_largest : Params.fits ⟨1, 2, 3, 1, 1, 1, 1, 1⟩ ⟨1, 3, 7, 1, 1, 1, 1, 1⟩ = true := by decide
theorem test_fits_refuses_u0 : Params.fits Config.resetCfg.paramW ⟨2, 0, 0, 0, 0, 0, 0, 0⟩ = false := by decide
theorem test_fits_refuses_u1 : Params.fits Config.resetCfg.paramW ⟨0, 2, 0, 0, 0, 0, 0, 0⟩ = false := by decide
theorem test_fits_refuses_u2 : Params.fits Config.resetCfg.paramW ⟨0, 0, 2, 0, 0, 0, 0, 0⟩ = false := by decide
theorem test_fits_refuses_u3 : Params.fits Config.resetCfg.paramW ⟨0, 0, 0, 2, 0, 0, 0, 0⟩ = false := by decide
theorem test_fits_refuses_u4 : Params.fits Config.resetCfg.paramW ⟨0, 0, 0, 0, 2, 0, 0, 0⟩ = false := by decide
theorem test_fits_refuses_u5 : Params.fits Config.resetCfg.paramW ⟨0, 0, 0, 0, 0, 2, 0, 0⟩ = false := by decide
theorem test_fits_refuses_u6 : Params.fits Config.resetCfg.paramW ⟨0, 0, 0, 0, 0, 0, 2, 0⟩ = false := by decide
theorem test_fits_refuses_u7 : Params.fits Config.resetCfg.paramW ⟨0, 0, 0, 0, 0, 0, 0, 2⟩ = false := by decide

theorem test_request_refused : Request.wf Config.resetCfg (.command ⟨0x2000, ⟨0, 0, 0, 0, 0, 0, 0, 2⟩, .rat 0⟩) = false := by
  decide

theorem test_pushd_4_refused : (AsmLine.pushd 4).wf Config.resetCfg = false := by decide
theorem test_appcw_line_refused : (AsmLine.appcw ⟨0, 2, 0, 0, 0, 0, 0, 0⟩).wf Config.resetCfg = false := by decide
theorem test_produce_4096_refused : (AsmLine.produce 4096).wf Config.resetCfg = false := by decide
theorem test_mute_2_refused : (AsmLine.mute 2).wf Config.resetCfg = false := by decide
theorem test_pushds_refused : (AsmLine.pushds [1, 4]).wf Config.resetCfg = false := by decide
theorem test_symbols_1024_refused : (AsmLine.symbols 1024).wf Config.resetCfg = false := by decide
theorem test_word_refused : (AsmLine.word 0x10000).wf Config.resetCfg = false := by decide

/-! ### Decoding: words written out bit by bit, `op` then `arg` (30 R63, V1 to V7) -/

theorem test_decode_pushd : decode 0b0001_0000_0000_0010 = .ok (.pushd 2) := by decide
theorem test_decode_appcw : decode 0b0010_0000_0000_0000 = .ok .appcw := by decide
theorem test_decode_produce : decode 0b0011_0000_0000_1100 = .ok (.produce 12) := by decide
theorem test_decode_produce_high_bit : decode 0b0011_1000_0000_0001 = .ok (.produce 2049) := by decide
theorem test_decode_mute : decode 0b0100_0000_0000_0001 = .ok (.mute 1) := by decide
theorem test_decode_unmute : decode 0b0100_0000_0000_0000 = .ok (.mute 0) := by decide
theorem test_decode_classify : decode 0b0101_0000_0000_0000 = .ok .classify := by decide

theorem test_decode_v1 :
    decode 0x1000 = .ok (.pushd 0) ∧ decode 0x1001 = .ok (.pushd 1) ∧ decode 0x1003 = .ok (.pushd 3) := by decide
theorem test_decode_v2 :
    decode 0x1004 = .error .mustBeZero ∧ decode 0x1800 = .error .mustBeZero ∧ decode 0x1FFF = .error .mustBeZero := by
  decide
theorem test_decode_v3 : decode 0x2001 = .error .mustBeZero ∧ decode 0x2FFF = .error .mustBeZero := by decide
theorem test_decode_v4 :
    decode 0x3000 = .ok (.produce 0) ∧ decode 0x3001 = .ok (.produce 1) ∧ decode 0x3FFF = .ok (.produce 4095) := by
  decide
theorem test_decode_v5 :
    decode 0x4002 = .error .mustBeZero ∧ decode 0x4003 = .error .mustBeZero ∧ decode 0x4FFF = .error .mustBeZero := by
  decide
theorem test_decode_v6 : decode 0x5001 = .error .mustBeZero ∧ decode 0x5FFF = .error .mustBeZero := by decide
theorem test_decode_v7_low :
    decode 0x0000 = .error .reservedOp ∧ decode 0x0001 = .error .reservedOp ∧ decode 0x0FFF = .error .reservedOp := by
  decide
theorem test_decode_v7_high :
    decode 0x6000 = .error .reservedOp ∧ decode 0x7123 = .error .reservedOp ∧ decode 0xF000 = .error .reservedOp ∧
      decode 0xFFFF = .error .reservedOp := by decide

theorem test_encode :
    encode (.pushd 3) = 0x1003 ∧ encode .appcw = 0x2000 ∧ encode (.produce 12) = 0x300C ∧ encode (.mute 1) = 0x4001 ∧
      encode .classify = 0x5000 := by decide

theorem test_table_word : decodeTableWord 16 0x300C = some (.produce 12) := by decide
theorem test_table_word_reserved : decodeTableWord 16 0x7123 = none := by decide

/-! ### Assembly (30 R74, R75) -/

theorem test_assemble_p1_words :
    (assemble Config.resetCfg [.pushds [1, 2], .symbols 3]) =
      some [.command (pushdLine 1), .command (pushdLine 2), .command (plainCommand (.produce 12))] := by decide

theorem test_assemble_error : assemble Config.resetCfg [.pushd 1, .produce 4096] = none := by decide

/-! ### PUSHD (41 R92) -/

/-- The worked example of R92. -/
theorem test_pushd : (nextOf (exec (.pushd 3) (queued [2] State.reset))).map State.queue = some [2, 3] := by decide

/-- D15: appended while muted. -/
theorem test_pushd_muted :
    (nextOf (exec (.pushd 2) { State.reset with mute := true })).map State.queue = some [2] := by decide

/-! ### PRODUCE (V12, V19) -/

/-- V12, four dibits at the stride that does not divide `SPS`. -/
theorem test_produce_v12 :
    (nextOf (exec (.produce 6) (queued [1, 2, 3, 0] (withStride 3)))).map
      (fun t => (t.out, t.phase, t.prev, t.cursor, t.queue)) =
      some (romSamples [(0, 1, 0), (0, 1, 3), (1, 6, 2), (4, 27, 1), (3, 44, 0), (3, 44, 3)], 0, 0, 2, []) := by decide

/-- V19, the real variant. -/
theorem test_produce_v19 :
    (nextOf (exec (.produce 7) (queued [3, 3, 3, 3, 3] (realWithStride 3)))).map
      (fun t => (t.out, t.sr8, t.cursor, t.actV)) =
      some (romSamplesR [(3, 0), (3, 3), (15, 2), (63, 1), (255, 0), (255, 3), (255, 2)], 255, 1, false) := by decide

/-! ### MUTE (41 R104) -/

/-- The worked example of R104. -/
theorem test_mute :
    (nextOf (exec (.mute 1) (queued [1, 2, 3] State.reset))).map (fun t => (t.mute, t.queue)) = some (true, []) := by
  decide

/-- V16: unmuting keeps a dibit pushed while muted, and the symbol that was cut. -/
theorem test_unmute :
    (nextOf (exec (.mute 0) { State.reset with mute := true, queue := [2], actV := true, cursor := 2 })).map
      (fun t => (t.mute, t.queue, t.mode, t.cursor)) = some (false, [2], .emitting, 2) := by decide

/-! ### APPCW (V30), over the primitives of TF1 -/

/-- The first codeword of V30: elements 64 and 65. -/
theorem test_appcw_first :
    (match appcwWith tf1 { State.reset with param := ones } with
      | .ok t => some (t.cwCount, t.frame.length, t.frame.getD 63 true, t.frame.getD 64 false, t.frame.getD 65 false,
          t.frame.getD 66 true)
      | .error _ => none) = some (1, 84, false, true, true, false) := by decide +kernel

/-- The ninth codeword of V30, from the frame after the eighth: 42 dibits. -/
theorem test_appcw_ninth :
    (match appcwWith tf1 { State.reset with
        param := ones, cwCount := 8
        frame := List.replicate 64 false ++ List.replicate 16 true ++ List.replicate 4 false } with
      | .ok t => some (t.queue, t.cwCount, t.unit)
      | .error _ => none) =
      some ([0, 1, 2, 3] ++ List.replicate 28 0 ++ [2] ++ List.replicate 8 3 ++ [0], 0, 1) := by decide +kernel

/-! ### CLASSIFY (V40, V41, V44 to V46, V48), at the ends of the bands -/

/-- V40 and V41; V44, `T3 < 0`; V45, descending; V46, `T3 = 0`. -/
theorem test_classify_vectors :
    ([-100, -3, -2, -1, 0, 1, 2, 3, 4, 5, 100] : List Rat).map (sliceRat ⟨-2, 0, 2, 4⟩) =
        [3, 3, 2, 2, 0, 0, 1, 1, 3, 3, 3] ∧
      ([-7, -6, -5, -4, -3, -2, -1, 0, 5] : List Rat).map (sliceRat ⟨-6, -4, -2, -1⟩) = [1, 2, 2, 0, 0, 1, 1, 1, 1] ∧
      ([-5, -4, -3, -2, -1, 0, 1, 2, 3] : List Rat).map (sliceRat ⟨2, 0, -2, -4⟩) = [1, 3, 3, 3, 3, 3, 3, 1, 1] ∧
      ([-3, -2, -1, 0, 1, 2, 3] : List Rat).map (sliceRat ⟨-2, 0, 2, 0⟩) = [3, 2, 2, 0, 0, 3, 3] := by decide

/-- V48: muted, with a queue, the same dibit, and the queue stays. -/
theorem test_classify_v48 :
    (nextOf (exec .classify { slicing ⟨-2, 0, 2, 4⟩ 1 with mute := true, queue := [1, 2] })).map
      (fun t => (t.out, t.queue, t.mute)) = some ([.dibit 0], [1, 2], true) := by decide

/-- An irrational threshold: with `T1` the square root of 2, the sample 1 is below it and 2 is not. -/
theorem test_classify_irrational (N : NamedReals) (h : N.value 0 = Real.sqrt 2) :
    sliceReal N ⟨.rat 0, .named 0, .rat 3, .rat 4⟩ (.rat 1) = 2 ∧
      sliceReal N ⟨.rat 0, .named 0, .rat 3, .rat 4⟩ (.rat 2) = 0 := by
  have h1 : (1 : ℝ) < Real.sqrt 2 := by
    rw [Real.lt_sqrt] <;> norm_num
  have h2 : Real.sqrt 2 < 2 := by
    rw [Real.sqrt_lt'] <;> norm_num
  constructor <;> norm_num [sliceReal, slice, h, h1, h2, not_le.mpr h1, h2.le]

/-! ### Reset and FAILED (V8, V60 to V69c) -/

/-- V8. -/
theorem test_reset_v8 : step (waiting (.reset tc1)) = .next State.reset := by rfl

/-- The outcome of a reset. -/
def resetOutcome (x : Straps) : Option (Bool × BitVec 4) :=
  (nextOf (step (waiting (.reset x)))).map fun t => (t.fail, t.errCode)

theorem test_reset_v60 : resetOutcome { tc1 with phaseCount := 4 } = some (true, 1) := by decide
theorem test_reset_v61 : resetOutcome { tc1 with waveCount := 256 } = some (true, 1) := by decide
theorem test_reset_v62 : resetOutcome { tc1 with sps := 0 } = some (true, 1) := by decide
theorem test_reset_v63 : resetOutcome { tc1 with nthresh := 3 } = some (true, 2) := by decide
theorem test_reset_v64 : resetOutcome { tc1 with d := 0 } = some (true, 3) := by decide
theorem test_reset_v65 : resetOutcome { tc1 with d := 5 } = some (true, 3) := by decide
theorem test_reset_v66 : resetOutcome { tc1 with frameBits := 83 } = some (true, 4) := by decide
theorem test_reset_v67 : resetOutcome { tc1 with zeroPos := [84] } = some (true, 4) := by decide
theorem test_reset_v68 : resetOutcome { tc1 with gain := .rat (-1) } = some (true, 5) := by decide
theorem test_reset_v69 : resetOutcome { tc1 with phaseCount := 16, d := 0, gain := .rat (-1) } = some (true, 1) := by decide
theorem test_reset_v69a : resetOutcome { tc1 with nthresh := 5, gain := .rat (-1) } = some (true, 2) := by decide
theorem test_reset_v69b : resetOutcome { tc1 with t := ⟨.rat 4, .rat 2, .rat 0, .rat (-2)⟩ } = some (false, 0) := by decide
theorem test_reset_boundary : resetOutcome { tc1 with sps := 1, frameBits := 64, zeroPos := [63], gain := .rat 0 } =
    some (false, 0) := by decide

/-- V69c. -/
theorem test_failed_v69c :
    refusalOf (exec (.pushd 1) failed) = some .blockFailed ∧ refusalOf (exec (.produce 4) failed) = some .blockFailed ∧
      refusalOf (exec .classify failed) = some .blockFailed := by decide

/-- V69c, a new reset with TC1 gives V8. -/
theorem test_failed_reset : step { failed with requests := [.reset tc1] } = .next State.reset := by rfl

/-! ### BUILD (V50, V51, V53) -/

/-- Tables with one shape value and one reference phase. -/
noncomputable def flat (b : ℝ) (r : Int) : WaveTables := ⟨fun _ _ => b, fun _ => r, fun _ _ => 0⟩

theorem test_wrap8_v52 : wrap8 5 = -3 := by
  have h : ⌊((5 : ℝ) + 4) / 8⌋ = 1 := by
    rw [Int.floor_eq_iff]
    norm_num
  rw [wrap8, h]
  norm_num

/-- The end of the range: 4 becomes -4. -/
theorem test_wrap8_v53 : wrap8 4 = -4 := by
  have h : ⌊((4 : ℝ) + 4) / 8⌋ = 1 := by
    rw [Int.floor_eq_iff]
    norm_num
  rw [wrap8, h]
  norm_num

theorem test_build_v51 : buildSample (flat 1 0) 2 3 0 0 = (0, -2) := by
  have h : ⌊((-2 : ℝ) + 4) / 8⌋ = 0 := by
    rw [Int.floor_eq_iff]
    norm_num
  have hv : shiftedShape (flat 1 0) 3 0 0 = -2 := by
    simp [shiftedShape, flat]
    norm_num
  have ha : (-2 : ℝ) * (Real.pi / 4) = -(Real.pi / 2) := by ring
  simp [buildSample, hv, wrap8, h, ha]

/-! ### The host agent (V70 to V72) -/

/-- A source with no payload. -/
def source : SourceConfig := ⟨5000, true, true, 2, 10⟩

/-- V71: a header-only datagram, `keyup = 1`, `sequence = 5`. -/
theorem test_datagram_v71 : parseDatagram source [0, 0, 0, 1, 0, 0, 0, 5] = some ⟨1, 5, none⟩ := by decide

/-- V71: little-endian samples. -/
theorem test_samples_v71 : leSamples [0xFE, 0xFF, 0x02, 0x01] = [-2, 258] := by decide

/-- V72: the numbers after 2^32 - 1 and after 0. -/
theorem test_sequence_v72 :
    (noteSequence 5 (noteSequence 0 (noteSequence 4294967295 SourceState.start))).log = [.gap 1 5] := by decide

/-- V72: an observed 0 is exempt. -/
theorem test_sequence_v72_exempt :
    (noteSequence 1 (noteSequence 0 (noteSequence 7 SourceState.start))).log = [] := by decide

/-- A source that was keyed up at 5 with a hold of 10. -/
def keyed : SourceState := { SourceState.start with keyUp := true, expiry := 15, expected := 6 }

/-- The timeout is logged once, at the expiry and not before (log entry 22), and the key-up state stays. -/
theorem test_timeout :
    (observeTimeout 14 keyed).log = [] ∧ (observeTimeout 15 keyed).log = [.keyUpTimeout] ∧
      (observeTimeout 16 (observeTimeout 15 keyed)).log = [.keyUpTimeout] ∧ (observeTimeout 15 keyed).keyUp = true := by
  decide

/-! ### Witnesses: concrete states that meet the hypotheses of the statements -/

theorem test_witness_EncodeOfDecodeIsIdentity : decode 0x1003 = .ok (.pushd 3) := by decide

theorem test_witness_ReservedWordsAreRefused :
    (waiting (.command ⟨0x7123, ones, .rat 0⟩)).requests = .command ⟨0x7123, ones, .rat 0⟩ :: [] ∧
      decode 0x7123 = .error .reservedOp := ⟨rfl, by decide⟩

/-- Both sides of every range end of the reserved words. -/
theorem test_witness_ReservedWordsAreRefused_ends :
    (decode 0x0FFF).toOption = none ∧ (decode 0x1000).toOption ≠ none ∧ (decode 0x1003).toOption ≠ none ∧
      (decode 0x1FFF).toOption = none ∧ (decode 0x2000).toOption ≠ none ∧ (decode 0x2001).toOption = none ∧
      (decode 0x3FFF).toOption ≠ none ∧ (decode 0x4FFF).toOption = none ∧ (decode 0x5FFF).toOption = none := by decide

theorem test_witness_StepRunsTheDecodedCommand :
    (waiting (.command ⟨0x1003, ones, .rat 0⟩)).requests = .command ⟨0x1003, ones, .rat 0⟩ :: [] ∧
      decode 0x1003 = .ok (.pushd 3) ∧ State.reset.requests = [] := ⟨rfl, by decide, rfl⟩

theorem test_witness_StepRunsTheDecodedCommand_placed :
    0x300C < 2 ^ 16 ∧ decode (BitVec.ofNat 16 0x300C) = .ok (.produce 12) := by decide

theorem test_witness_GoodResetInitialisesEverything :
    (waiting (.reset tc1)).requests = .reset tc1 :: [] ∧ tc1.phaseCount = 8 ∧ tc1.waveCount = 64 ∧ 1 ≤ tc1.sps ∧
      tc1.nthresh = 4 ∧ 1 ≤ tc1.d ∧ tc1.d ≤ tc1.sps ∧ tc1.frameBits % 2 = 0 ∧ 64 ≤ tc1.frameBits ∧
      (∀ i ∈ tc1.zeroPos, (i : Int) < tc1.frameBits) ∧ 0 ≤ realValue Config.namedReals tc1.gain := by
  refine ⟨rfl, ?_, ?_, ?_, ?_, ?_, ?_, ?_, ?_, ?_, by simp [tc1]⟩ <;> decide

/-- V60, V63, V64, V66 and V68 make each premise of the statement true in turn; see the reset tests. -/
theorem test_witness_ResetReportsTheLowestFailingCode :
    (waiting (.reset { tc1 with phaseCount := 4 })).requests = .reset { tc1 with phaseCount := 4 } :: [] ∧
      ({ tc1 with phaseCount := 4 } : Straps).phaseCount ≠ 8 ∧ ({ tc1 with nthresh := 3 } : Straps).nthresh ≠ 4 ∧
      ({ tc1 with d := 0 } : Straps).d < 1 ∧ ({ tc1 with frameBits := 83 } : Straps).frameBits % 2 ≠ 0 ∧
      realValue Config.namedReals ({ tc1 with gain := .rat (-1) } : Straps).gain < 0 := by
  refine ⟨rfl, ?_, ?_, ?_, ?_, by simp⟩ <;> decide

theorem test_witness_FailedBlockRefusesEveryCommand : failed.fail = true := rfl

theorem test_witness_OnlyAGoodResetLeavesFailed :
    ({ failed with requests := [.reset tc1] } : State).fail = true ∧
      step { failed with requests := [.reset tc1] } = .next State.reset ∧ State.reset.fail = false := ⟨rfl, rfl, rfl⟩

/-- A state with one PUSHD waiting is in range, and its step answers. -/
theorem test_witness_StepKeepsTheInvariant :
    (waiting (.command ⟨0x1003, ones, .rat 0⟩)).Inv ∧
      step (waiting (.command ⟨0x1003, ones, .rat 0⟩)) =
        .next { State.reset with queue := [3], param := ones } := by
  refine ⟨⟨fun _ => ⟨⟨?_, ?_, ?_, ?_⟩, rfl⟩, fun h => absurd h (by decide)⟩, rfl⟩ <;> decide

theorem test_witness_StepKeepsTheOtherVariantUntouched :
    (waiting (.command ⟨0x1003, ones, .rat 0⟩)).OneVariant ∧ (realWithStride 1).OneVariant := by
  constructor <;> intro _ <;> decide

/-- A sample of each variant. -/
theorem test_witness_OtherVariantIsNeverRead :
    State.reset.cfg.complex = true ∧ (∃ t, exec (.produce 1) (queued [1] State.reset) = .next t) ∧
      (realWithStride 1).cfg.complex = false ∧ ∃ t, exec (.produce 1) (queued [1] (realWithStride 1)) = .next t :=
  ⟨rfl, ⟨_, rfl⟩, rfl, _, rfl⟩

/-- Each kind of request is performable. -/
theorem test_witness_NoCommandFailsAtRunTime :
    State.reset.Inv ∧ State.reset.fail = false ∧ performable Config.resetCfg (.reset tc1) = true ∧
      performable Config.resetCfg (.command ⟨0x2000, ones, .rat 0⟩) = true ∧
      performable Config.resetCfg (.command ⟨0x3FFF, ones, .rat 0⟩) = true := by
  refine ⟨⟨fun _ => ⟨⟨?_, ?_, ?_, ?_⟩, rfl⟩, fun h => absurd h (by decide)⟩, rfl, ?_, ?_, ?_⟩ <;> decide

/-- Every command answers a next state somewhere. -/
theorem test_witness_CommandsWriteOnlyTheirOwnState :
    (∃ t, exec (.pushd 1) State.reset = .next t) ∧ (∃ t, exec .appcw State.reset = .next t) ∧
      (∃ t, exec (.produce 1) State.reset = .next t) ∧ (∃ t, exec (.mute 1) State.reset = .next t) ∧
      (∃ t, exec .classify State.reset = .next t) := ⟨⟨_, rfl⟩, ⟨_, rfl⟩, ⟨_, rfl⟩, ⟨_, rfl⟩, ⟨_, rfl⟩⟩

theorem test_witness_FloatOutIsNeverRead :
    exec (.pushd 1) State.reset = .next { State.reset with queue := [1] } := rfl

/-- A state for every row of the transition table; the cursor is at both sides of the end of a symbol. -/
theorem test_witness_ModeFollowsTheTransitionTable :
    (State.reset.mode = .idle ∧ State.reset.queue = []) ∧
      ((queued [1] State.reset).mode = .idle ∧ (queued [1] State.reset).queue ≠ []) ∧
      (2 + Config.resetCfg.d < Config.resetCfg.sps ∧ Config.resetCfg.sps ≤ 3 + Config.resetCfg.d) ∧
      ({ State.reset with actV := true, cursor := 2 } : State).mode = .emitting ∧
      ({ State.reset with mute := true, actV := true } : State).mode = .muted ∧ State.reset.fail = false ∧
      State.reset.cursor ≤ State.reset.cfg.sps := by decide

/-- The tick rows of the transition table, one state each. -/
theorem test_transition_rows :
    ([State.reset, queued [1] { State.reset with cursor := 2 }, queued [1] { State.reset with cursor := 3 },
      { State.reset with actV := true, cursor := 2 }, { State.reset with actV := true, cursor := 3 },
      { State.reset with mute := true, queue := [1] }].map
        fun s => (nextOf (exec (.produce 1) s)).map fun t => (t.mode, t.cursor, t.queue)) =
      [some (.idle, 0, []), some (.emitting, 3, []), some (.idle, 0, []), some (.emitting, 3, []), some (.idle, 0, []),
        some (.muted, 0, [])] := by decide

theorem test_witness_QueuePrimitivesAreFifo : (queued [1, 2] State.reset).queue = 1 :: [2] := rfl

theorem test_witness_PushdAppendsOneDibit : State.reset.fail = false := rfl

theorem test_witness_MuteSetsTheFlagAndFlushes : (queued [1] State.reset).fail = false := rfl

/-- V16: a symbol is cut, and three muted samples pass. -/
theorem test_witness_MutedSpanKeepsTheDatapath :
    ∃ t u v, exec (.mute 1) { State.reset with actV := true, cursor := 2, queue := [2, 3] } = .next t ∧
      exec (.produce 3) t = .next u ∧ exec (.mute 0) u = .next v := ⟨_, _, _, rfl, rfl, rfl⟩

theorem test_witness_PushDuringASymbolWaits :
    ({ State.reset with actV := true, cursor := 2 } : State).mode = .emitting ∧
      ∃ t u, exec (.pushd 1) { State.reset with actV := true, cursor := 2 } = .next t ∧
        exec (.produce 1) t = .next u := ⟨rfl, _, _, rfl, rfl⟩

/-- Each previous dibit. -/
theorem test_witness_BoundarySelectsThenAdvances :
    State.reset.prev = 0 ∧ ({ State.reset with prev := 1 } : State).prev = 1 ∧
      ({ State.reset with prev := 2 } : State).prev = 2 ∧ ({ State.reset with prev := 3 } : State).prev = 3 :=
  ⟨rfl, rfl, rfl, rfl⟩

/-- V20: `6 + PHASE_INC[3] = 11` wraps to 3, and V10: `108` loses its top dibit. -/
theorem test_boundary_wraps :
    (boundaryC 3 { State.reset with phase := 6, sr := 27, prev := 3 }).phase = 3 ∧
      (boundaryC 0 { State.reset with phase := 3, sr := 27, prev := 3 }).actW = 44 ∧
      (boundaryC 0 { State.reset with cfg := { Config.resetCfg with phaseInc := ⟨-1, 3, 7, 5⟩ } }).phase = 7 ∧
      (boundaryR 1 { State.reset with sr8 := 108 }).sr8 = 177 := by decide

theorem test_witness_PhaseIsTheSumOfPastIncrements : ([3, 3, 0] : List Dibit) ≠ [] := by decide

theorem test_witness_ShiftRegisterHoldsThreeDibits : State.reset.sr = 0 := rfl

/-- At the last offset of a symbol, with the largest stride. -/
theorem test_witness_ProduceEmitsExactlyTheCount :
    ({ withStride 4 with cursor := 3 } : State).fail = false ∧
      ({ withStride 4 with cursor := 3 } : State).cursor < (withStride 4).cfg.sps ∧
      (withStride 4).cfg.d ≤ (withStride 4).cfg.sps := by decide

/-- Both variants, muted and not. -/
theorem test_witness_ProduceChangesOnlyTheSequencer :
    (∃ t, exec (.produce 2) (queued [1] State.reset) = .next t) ∧ State.reset.cfg.complex = true ∧
      (∃ t, exec (.produce 2) (queued [1] (realWithStride 1)) = .next t) ∧ (realWithStride 1).cfg.complex = false ∧
      (∃ t, exec (.produce 2) { queued [1] State.reset with mute := true } = .next t) :=
  ⟨⟨_, rfl⟩, rfl, ⟨_, rfl⟩, rfl, ⟨_, rfl⟩⟩

theorem test_witness_ProduceOneAtABoundary :
    (queued [1] State.reset).fail = false ∧ (queued [1] State.reset).mode = .idle ∧
      (queued [1] State.reset).cfg.complex = true ∧ (queued [1] State.reset).queue = 1 :: [] ∧
      (queued [1] State.reset).cursor ≤ (queued [1] State.reset).cfg.sps := ⟨rfl, rfl, rfl, rfl, by decide⟩

theorem test_witness_ProduceOneAtARealBoundary :
    (queued [1] (realWithStride 1)).fail = false ∧ (queued [1] (realWithStride 1)).mode = .idle ∧
      (queued [1] (realWithStride 1)).cfg.complex = false ∧ (queued [1] (realWithStride 1)).queue = 1 :: [] ∧
      (queued [1] (realWithStride 1)).cursor ≤ (realWithStride 1).cfg.sps := ⟨rfl, rfl, rfl, rfl, by decide⟩

theorem test_witness_ProduceOneInsideASymbol :
    ({ State.reset with actV := true, cursor := 3 } : State).fail = false ∧
      ({ State.reset with actV := true, cursor := 3 } : State).mode = .emitting ∧
      ({ State.reset with actV := true, cursor := 3 } : State).cursor ≤ State.reset.cfg.sps := ⟨rfl, rfl, by decide⟩

/-- Idle with nothing queued, and the last offset of a symbol. -/
theorem test_witness_UnderrunHappensOnlyInIdle :
    State.reset.fail = false ∧ State.reset.mode = .idle ∧ State.reset.queue = [] ∧
      ({ State.reset with actV := true, cursor := 3 } : State).fail = false ∧
      ({ State.reset with actV := true, cursor := 3 } : State).mode = .emitting ∧ 3 ≤ State.reset.cfg.sps := by decide

/-- Idle, and in the middle of a symbol with the queue empty. -/
theorem test_witness_UnderrunIsIdempotent :
    (State.reset.fail = false ∧ State.reset.mute = false ∧ State.reset.queue = [] ∧ State.reset.actV = false) ∧
      (5 : BitVec 12) ≠ 0 ∧ ∃ t, exec (.produce 5) { State.reset with actV := true, cursor := 2 } = .next t :=
  ⟨⟨rfl, rfl, rfl, rfl⟩, by decide, _, rfl⟩

theorem test_witness_MutedProduceFlushesAndEmitsZeros :
    ({ queued [1, 2] State.reset with mute := true } : State).fail = false ∧
      ({ queued [1, 2] State.reset with mute := true } : State).mute = true := ⟨rfl, rfl⟩

/-- V15. -/
theorem test_witness_SplittingARequestChangesNothing :
    (3 : BitVec 12).toNat + (5 : BitVec 12).toNat = (8 : BitVec 12).toNat ∧
      ∃ t u, exec (.produce 3) (queued [3, 3] State.reset) = .next t ∧ exec (.produce 5) t = .next u :=
  ⟨by decide, _, _, rfl, rfl⟩

/-- The lengths of V12: 2 from offset 0, 1 from offset 2, 1 from offset 1. -/
theorem test_witness_SymbolLengthFollowsTheFormula :
    (queued [1] (withStride 3)).fail = false ∧ (queued [1] (withStride 3)).mode = .idle ∧
      (queued [1] (withStride 3)).queue = 1 :: [] ∧ (withStride 3).cursor < (withStride 3).cfg.sps ∧
      1 ≤ (withStride 3).cfg.d ∧ (withStride 3).cfg.d ≤ (withStride 3).cfg.sps ∧
      (2 : BitVec 12).toNat = (4 - 0 + 3 - 1) / 3 ∧ (1 : BitVec 12).toNat = (4 - 2 + 3 - 1) / 3 ∧
      (1 : BitVec 12).toNat = (4 - 1 + 3 - 1) / 3 := by decide

/-- V13. -/
theorem test_witness_QueueIsModulatedInFifoOrder :
    (queued [1, 2, 3] (withStride 4)).fail = false ∧ (queued [1, 2, 3] (withStride 4)).mode = .idle ∧
      (queued [1, 2, 3] (withStride 4)).cfg.complex = true ∧ (queued [1, 2, 3] (withStride 4)).queue = [1, 2, 3] ∧
      (3 : BitVec 12).toNat = ([1, 2, 3] : List Dibit).length ∧ (withStride 4).cursor < (withStride 4).cfg.sps ∧
      (withStride 4).cfg.d = (withStride 4).cfg.sps := by decide

/-- A negative entry and one above 7, with the residues of TC1. -/
theorem test_witness_OnlyIncrementResiduesMatter :
    (-7 : Int) % 8 = Config.resetCfg.phaseInc.x0 % 8 ∧ (11 : Int) % 8 = Config.resetCfg.phaseInc.x1 % 8 ∧
      (-1 : Int) % 8 = Config.resetCfg.phaseInc.x2 % 8 ∧ (5 : Int) % 8 = Config.resetCfg.phaseInc.x3 % 8 ∧
      ∃ t, exec (.produce 2) (queued [1] State.reset) = .next t :=
  ⟨by decide, by decide, by decide, by decide, _, rfl⟩

/-- The first and the eighth codeword. -/
theorem test_witness_AppcwStoresOneCodeword :
    ({ State.reset with param := ones } : State).fail = false ∧ Params.fits Config.resetCfg.paramW ones = true ∧
      State.reset.cwCount.toNat < 8 ∧ ({ State.reset with cwCount := 7 } : State).cwCount.toNat < 8 := by decide

theorem test_witness_NinthCodewordEmitsTheUnit :
    ({ State.reset with param := ones, cwCount := 8 } : State).fail = false ∧
      Params.fits Config.resetCfg.paramW ones = true ∧
      ({ State.reset with param := ones, cwCount := 8 } : State).cwCount = 8 ∧ Config.resetCfg.frameBits % 2 = 0 ∧
      ∀ i ∈ Config.resetCfg.zeroPos, i < Config.resetCfg.frameBits := by decide

theorem test_witness_AppcwRefusesAFieldOutsideItsWidth :
    ({ State.reset with param := ⟨2, 0, 0, 0, 0, 0, 0, 0⟩ } : State).fail = false ∧
      Params.fits Config.resetCfg.paramW ⟨2, 0, 0, 0, 0, 0, 0, 0⟩ = false := by decide

/-- Nine APPCW waiting at reset. -/
theorem test_witness_NineCodewordsEmitOneUnit :
    ({ State.reset with
        requests := (List.replicate 9 ones).map (fun u => .command ⟨0x2000, u, .rat 0⟩) ++ [] } : State).Inv ∧
      (List.replicate 9 ones).length = 9 ∧ State.reset.cwCount = 0 ∧
      ∀ u ∈ List.replicate 9 ones, Params.fits Config.resetCfg.paramW u = true := by
  refine ⟨⟨fun _ => ⟨⟨?_, ?_, ?_, ?_⟩, rfl⟩, fun h => absurd h (by decide)⟩, ?_, ?_, ?_⟩ <;> decide

theorem test_witness_ZeroingOrderDoesNotMatter :
    (∀ i, i ∈ [65, 82, 83] ↔ i ∈ [83, 65, 82, 65]) ∧ ∀ i ∈ [65, 82, 83], i < (List.replicate 84 true).length := by
  refine ⟨fun i => ?_, by decide⟩
  simp only [List.mem_cons, List.not_mem_nil, or_false]
  tauto

theorem test_witness_FrameBecomesDibitsMsbFirst : ([true, false, false, true] : List Bool).length % 2 = 0 := by decide

/-- The even element is the more significant bit. -/
theorem test_frame_dibits :
    (match frameDibits [true, false, false, true] 0 2 with
      | .ok ds => some ds
      | .error _ => none) = some [2, 1] := by decide

theorem test_witness_ClassifyAppliesTheThresholdTests : (slicing ⟨-2, 0, 2, 4⟩ 3).fail = false := rfl

/-- The real thresholds of a state of rationals. -/
theorem slicing_values (t : Quad Rat) (x : Rat) :
    (slicing t x).cfg.t.map (realValue Config.namedReals) = t.map (fun q : Rat => (q : ℝ)) ∧
      realValue Config.namedReals (slicing t x).symIn = (x : ℝ) := ⟨rfl, rfl⟩

/-- The thresholds of V41, and a set with `T3 = 0`, the least admitted. -/
theorem test_witness_AscendingThresholdsGiveFiveBands :
    (∀ x, (slicing ⟨-2, 0, 2, 4⟩ x).fail = false) ∧
      (let T := (slicing ⟨-2, 0, 2, 4⟩ 3).cfg.t.map (realValue Config.namedReals)
       T.x0 ≤ T.x1 ∧ T.x1 ≤ T.x2 ∧ T.x2 ≤ T.x3 ∧ 0 ≤ T.x3) ∧
      (let T := (slicing ⟨-6, -4, -2, 0⟩ 3).cfg.t.map (realValue Config.namedReals)
       T.x0 ≤ T.x1 ∧ T.x1 ≤ T.x2 ∧ T.x2 ≤ T.x3 ∧ 0 ≤ T.x3) := by
  refine ⟨fun _ => rfl, ?_, ?_⟩ <;> simp only [slicing_values] <;> norm_num [Quad.map]

/-- A sample in each band, at its closed end. -/
theorem test_witness_AscendingThresholdsGiveFiveBands_bands :
    let T := (slicing ⟨-2, 0, 2, 4⟩ 3).cfg.t.map (realValue Config.namedReals)
    (-3 : ℝ) < T.x0 ∧ (T.x0 ≤ -2 ∧ (-2 : ℝ) < T.x1) ∧ (T.x1 ≤ 0 ∧ (0 : ℝ) < T.x2) ∧ (T.x2 ≤ 2 ∧ (2 : ℝ) < T.x3) ∧
      T.x3 ≤ 4 := by
  simp only [slicing_values]
  norm_num [Quad.map]

/-- V44. -/
theorem test_witness_NegativeTopThresholdNeverGivesThree :
    let T := (slicing ⟨-6, -4, -2, -1⟩ 3).cfg.t.map (realValue Config.namedReals)
    (T.x0 ≤ T.x1 ∧ T.x1 ≤ T.x2 ∧ T.x2 ≤ T.x3 ∧ T.x3 < 0) ∧ (-7 : ℝ) < T.x0 ∧ (T.x0 ≤ -6 ∧ (-6 : ℝ) < T.x1) ∧
      (T.x1 ≤ -4 ∧ (-4 : ℝ) < T.x2) ∧ T.x2 ≤ -2 := by
  simp only [slicing_values]
  norm_num [Quad.map]

/-- V48: two states that differ in everything but the sample and the thresholds. -/
theorem test_witness_ClassifyIsAPureFunction :
    (slicing ⟨-2, 0, 2, 4⟩ 1).fail = false ∧
      ({ slicing ⟨-2, 0, 2, 4⟩ 1 with mute := true, queue := [1, 2], phase := 5 } : State).fail = false ∧
      realValue Config.namedReals (slicing ⟨-2, 0, 2, 4⟩ 1).symIn =
        realValue Config.namedReals
          ({ slicing ⟨-2, 0, 2, 4⟩ 1 with mute := true, queue := [1, 2], phase := 5 } : State).symIn ∧
      (slicing ⟨-2, 0, 2, 4⟩ 1).cfg.t =
        ({ slicing ⟨-2, 0, 2, 4⟩ 1 with mute := true, queue := [1, 2], phase := 5 } : State).cfg.t :=
  ⟨rfl, rfl, rfl, rfl⟩

theorem test_witness_RomMagnitudeIsTheGain : 0 ≤ realValue Config.namedReals Config.resetCfg.gain := by
  simp [Config.resetCfg]

theorem test_witness_ZeroGainHidesTheSamples :
    realValue Config.namedReals ({ Config.resetCfg with gain := .rat 0 } : Cfg).gain = 0 := by simp

/-- V71: nine bytes, one more than a header; and the two legal lengths, 8 and 12. -/
theorem test_witness_WrongLengthDatagramIsDiscarded :
    (List.replicate 9 (0 : BitVec 8)).length ≠ 8 ∧
      (List.replicate 9 (0 : BitVec 8)).length ≠ 8 + 2 * source.payloadSamples ∧
      (List.replicate 8 (0 : BitVec 8)).length = 8 ∧
      (List.replicate 12 (0 : BitVec 8)).length = 8 + 2 * source.payloadSamples := by decide

/-- A key-up datagram of 8 bytes, met by a source not keyed and by one keyed. -/
theorem test_witness_KeyUpChangesAreLoggedAndNotified :
    parseDatagram source [0, 0, 0, 1, 0, 0, 0, 5] = some ⟨1, 5, none⟩ ∧
      (receive source (fun _ => ones) 0 [0, 0, 0, 1, 0, 0, 0, 5] SourceState.start).1.keyUp ≠ SourceState.start.keyUp ∧
      (receive source (fun _ => ones) 0 [0, 0, 0, 1, 0, 0, 0, 5] keyed).1.keyUp = keyed.keyUp := by decide

/-- Both kinds of datagram, and the timer at its expiry, before it, observed and not keyed. -/
theorem test_witness_HoldTimerIsRefreshedAndObserved :
    (parseDatagram source [0, 0, 0, 1, 0, 0, 0, 5] = some ⟨1, 5, none⟩ ∧ (1 : BitVec 32) ≠ 0) ∧
      parseDatagram source [0, 0, 0, 0, 0, 0, 0, 5] = some ⟨0, 5, none⟩ ∧
      (keyed.keyUp = true ∧ keyed.expiry ≤ 15 ∧ keyed.timedOut = false) ∧ 14 < keyed.expiry ∧
      SourceState.start.keyUp = false ∧ ({ keyed with timedOut := true } : SourceState).timedOut = true := by decide

/-- A drain that begins at the expiry and then finds a key-up datagram logs the timeout, first and once. -/
theorem test_timeout_before_reads :
    (drain source (fun _ => ones) 15 [.datagram 16 [0, 0, 0, 1, 0, 0, 0, 6], .error 7] keyed).1.log =
        [.keyUpTimeout, .socketError 7] ∧
      (drain source (fun _ => ones) 14 [.datagram 16 [0, 0, 0, 1, 0, 0, 0, 6], .error 7] keyed).1.log =
        [.socketError 7] := by decide

/-- With a payload size of 0 a header alone meets the premise of a full datagram, and is taken as one (log entry 17). -/
theorem test_witness_PayloadIsDispatchedByConfiguration_empty :
    ([] : List (BitVec 8)).length = 2 * ({ source with payloadSamples := 0 } : SourceConfig).payloadSamples ∧
      (receive { source with payloadSamples := 0 } (fun _ => ones) 0 [0, 0, 0, 1, 0, 0, 0, 5] SourceState.start).2.map
        (fun r => match r with | .command c => some (c.word, c.param) | .reset _ => none) = [some (0x2000, ones)] := by decide

/-- A header alone, and a header with two samples, on both paths. -/
theorem test_witness_PayloadIsDispatchedByConfiguration :
    ([0, 0, 0, 1, 0, 0, 0, 5] : List (BitVec 8)).length = 8 ∧ 0 < source.payloadSamples ∧
      ([0xFE, 0xFF, 0x02, 0x01] : List (BitVec 8)).length = 2 * source.payloadSamples ∧
      source.useCompressedVoice = true ∧ ({ source with useCompressedVoice := false } : SourceConfig).useCompressedVoice = false := by
  decide

theorem test_witness_SocketErrorStopsTheDrain :
    SourceState.start.lastSocketError ≠ some 7 ∧
      ({ SourceState.start with lastSocketError := some 7 } : SourceState).lastSocketError = some 7 ∧
      ({ source with listenPort := 0 } : SourceConfig).listenPort = 0 := by decide

theorem test_witness_GapExampleLogsOneWarning : SourceState.start.expected = 0 := rfl

end Sys2Proof.Tests
end

section
/-! PROOFS. The symbol sequencer (file 41): the boundary of the complex variant, and underrun. -/

namespace Sys2Proof.Machine

/-! ### The symbol boundary -/

/-- A shift register after a dibit, in the words of 41 R95 and R98: the mask 63 for `SR`, 255 for `SR8`. -/
theorem shiftInDibit_toNat {w : Nat} (v : BitVec w) (d : Dibit) :
    (shiftInDibit v d).toNat = ((v.toNat <<< 2) ||| d.toNat) &&& (2 ^ w - 1) := by
  rw [Nat.and_two_pow_sub_one_eq_mod, Nat.or_mod_two_pow]
  simp [shiftInDibit]

theorem phaseIncOf_zero (c : Cfg) : phaseIncOf c 0 = c.phaseInc.x0 := rfl
theorem phaseIncOf_one (c : Cfg) : phaseIncOf c 1 = c.phaseInc.x1 := rfl
theorem phaseIncOf_two (c : Cfg) : phaseIncOf c 2 = c.phaseInc.x2 := rfl
theorem phaseIncOf_three (c : Cfg) : phaseIncOf c 3 = c.phaseInc.x3 := rfl

/-- The phase after a boundary, by the increment of the dibit before (41 R96). -/
theorem boundaryC_phase_toNat (d : Dibit) (s : State) :
    ((boundaryC d s).phase.toNat : Int) = ((s.phase.toNat : Int) + phaseIncOf s.cfg s.prev) % 8 := by
  rw [boundaryC_phase, addPhase_toNat]

/-- Settles O23: the shift is `shiftInDibit_toNat` at width 6, the phase `boundaryC_phase_toNat` at each previous
dibit; the entry selected and the frame are the fields as `boundaryC` writes them. -/
theorem boundarySelectsThenAdvances : Obligations.BoundarySelectsThenAdvances := by
  intro d s
  have hphase := boundaryC_phase_toNat d s
  refine ⟨shiftInDibit_toNat s.sr d, rfl, rfl, rfl, fun h => ?_, fun h => ?_, fun h => ?_, fun h => ?_, rfl, rfl⟩
  · rwa [h, phaseIncOf_zero] at hphase
  · rwa [h, phaseIncOf_one] at hphase
  · rwa [h, phaseIncOf_two] at hphase
  · rwa [h, phaseIncOf_three] at hphase

/-! ### One sample -/

/-- PRODUCE 1 outside FAILED and not muted is one tick, with its sample out and the count 1 returned (41 R100). -/
theorem exec_produce_one {s u : State} {x : Sample} (hf : s.fail = false) (hm : s.mute = false)
    (h : tick s = .ok (x, u)) :
    exec (.produce 1) s = .next { u with out := u.out ++ [.sample x], counts := u.counts ++ [1] } := by
  have hticks : ticks (1 : BitVec 12).toNat (flushIfMuted s) = .ok ([x], u) := by
    rw [flushIfMuted_of_not_mute hm]
    exact ticks_one h
  exact execProduce_of_ticks hf hticks

/-- A ROM sample is not ZERO. -/
@[simp] theorem romOf_isZero (s : State) : (romOf s).isZero = false := by
  unfold romOf
  split <;> rfl

/-- A tick in EMITTING does not look at the queue: with any queue the same sample, the same registers, that queue
left (41 R97). -/
theorem tick_emitting_withQueue {s : State} (q : List Dibit) (hm : s.mute = false) (ha : s.actV = true)
    (hk : s.cursor ≤ s.cfg.sps) :
    tick { s with queue := q } = .ok (romOf s, { advanceCursor s with queue := q }) := by
  have hadv : advanceCursor { s with queue := q } = { advanceCursor s with queue := q } := by
    rw [advanceCursor_eq, advanceCursor_eq]
    rfl
  rw [tick_emitting (s := { s with queue := q }) hm ha hk, hadv]
  rfl

/-- Settles O32: in IDLE with nothing queued the one tick is an underrun, which leaves the state; in EMITTING it is the
ROM sample of the active entry, whatever is queued. -/
theorem underrunHappensOnlyInIdle : Obligations.UnderrunHappensOnlyInIdle := by
  intro s hf
  constructor
  · intro hidle hq
    obtain ⟨hm, ha⟩ := mode_eq_idle.mp hidle
    exact exec_produce_one hf hm (tick_underrun hm ha hq)
  · intro hemit hk
    obtain ⟨hm, ha⟩ := mode_eq_emitting.mp hemit
    refine ⟨{ advanceCursor s with out := s.out ++ [.sample (romOf s)], counts := s.counts ++ [1] }, romOf s,
      romOf_isZero s, rfl, fun q => ?_⟩
    have hprod := exec_produce_one (s := { s with queue := q }) hf hm (tick_emitting_withQueue q hm ha hk)
    simpa [advanceCursor_eq] using hprod

end Sys2Proof.Machine
end

section
/-! PROOFS. The frame assembler (file 43): the zeroing of positions and the conversion of a frame to dibits. -/

namespace Sys2Proof.Machine

/-- Zeroing depends on which positions are listed, not on their order or number: the frame it gives is fixed element by
element by `zeroPositions_spec`, and membership is all that lemma reads of the list. -/
theorem zeroPositions_congr {l m : List Nat} {f : List Bool} (hlm : ∀ i, i ∈ l ↔ i ∈ m) (hl : ∀ i ∈ l, i < f.length) :
    zeroPositions l f = zeroPositions m f := by
  obtain ⟨g, hg, hglen, hgel⟩ := zeroPositions_spec hl
  obtain ⟨g', hg', hglen', hgel'⟩ := zeroPositions_spec fun i hi => hl i ((hlm i).mpr hi)
  have hgg : g = g' := by
    refine List.ext_getElem? fun i => ?_
    rcases lt_or_ge i f.length with hi | hi
    · simp only [hgel i hi, hgel' i hi, hlm i]
    · rw [List.getElem?_eq_none (hglen.trans_le hi), List.getElem?_eq_none (hglen'.trans_le hi)]
  rw [hg, hg', hgg]

/-- Settles O43: the frame is the one of `zeroPositions_spec`, and the other list gives it too by
`zeroPositions_congr`. -/
theorem zeroingOrderDoesNotMatter : Obligations.ZeroingOrderDoesNotMatter := by
  intro l m f hlm hl
  obtain ⟨g, hg, hglen, hgel⟩ := zeroPositions_spec hl
  exact ⟨g, hg, (zeroPositions_congr hlm hl).symm.trans hg, hglen, hgel⟩

/-- Settles O44: `frameDibits_spec` from dibit 0 with half the frame's length as the count, each dibit read as a number
by `dibitOf_toNat`. -/
theorem frameBecomesDibitsMsbFirst : Obligations.FrameBecomesDibitsMsbFirst := by
  intro f _
  obtain ⟨ds, hds, hlen, hel⟩ := frameDibits_spec (f := f) 0 (f.length / 2) (by omega)
  refine ⟨ds, hds, hlen, fun j hj => ?_⟩
  obtain ⟨hi, lo, hhi, hlo, hd⟩ := hel j hj
  rw [Nat.zero_add] at hhi hlo
  exact ⟨hi, lo, dibitOf hi lo, hhi, hlo, hd, dibitOf_toNat hi lo⟩

end Sys2Proof.Machine
end

section
/-! PROOFS. Encoding (file 30): the decoder against the encoder, and the reserved words. -/

namespace Sys2Proof

/-! ### The two fields of an encoded command -/

/-- `op` of the row a command is an instance of (30 R63). -/
def opcodeOf : Instr → BitVec 4
  | .pushd _ => 1
  | .appcw => 2
  | .produce _ => 3
  | .mute _ => 4
  | .classify => 5

/-- `arg` of a command: its operand with zeros above (30 R63). -/
def argOf : Instr → BitVec 12
  | .pushd d => d.setWidth 12
  | .appcw => 0
  | .produce n => n
  | .mute m => m.setWidth 12
  | .classify => 0

/-- The encoder writes the opcode above the argument. -/
theorem encode_eq_append (i : Instr) : encode i = opcodeOf i ++ argOf i := by
  cases i with
  | pushd d => revert d; decide
  | appcw => rfl
  | produce n => rfl
  | mute m => revert m; decide
  | classify => rfl

@[simp] theorem opField_encode (i : Instr) : opField (encode i) = opcodeOf i := by
  rw [encode_eq_append, opField_append]

@[simp] theorem argField_encode (i : Instr) : argField (encode i) = argOf i := by
  rw [encode_eq_append, argField_append]

/-- The number of a command's word. -/
theorem encode_toNat (i : Instr) : (encode i).toNat = 4096 * (opcodeOf i).toNat + (argOf i).toNat := by
  rw [encode_eq_append, toNat_append_fields]

/-- A word with the opcode and the argument of a command is that command's word. -/
theorem encode_eq_of_fields {c : CommandWord} {i : Instr} (hop : opcodeOf i = opField c) (harg : argOf i = argField c) :
    encode i = c := by
  rw [encode_eq_append, hop, harg, append_fields]

/-- The lower bits of a widened operand are the operand. -/
theorem extract_low_setWidth {k : Nat} (x : BitVec k) (hk : k ≤ 12) : (x.setWidth 12).extractLsb' 0 k = x := by
  apply BitVec.eq_of_toNat_eq
  have h12 : x.toNat < 2 ^ 12 := x.isLt.trans_le (Nat.pow_le_pow_right (by decide) hk)
  rw [BitVec.extractLsb'_toNat, BitVec.toNat_setWidth, Nat.mod_eq_of_lt h12, Nat.shiftRight_zero,
    Nat.mod_eq_of_lt x.isLt]

/-- The must-be-zero bits of a widened operand are zero. -/
theorem extract_high_setWidth {k w : Nat} (x : BitVec k) (hw : k + w = 12) : (x.setWidth 12).extractLsb' k w = 0 := by
  rw [upper_bits_eq_zero _ k w hw, BitVec.toNat_setWidth]
  exact (Nat.mod_le _ _).trans_lt x.isLt

/-- An argument whose must-be-zero bits are zero is its lower bits, widened. -/
theorem setWidth_extract_low {a : BitVec 12} {k w : Nat} (hw : k + w = 12) (h : a.extractLsb' k w = 0) :
    (a.extractLsb' 0 k).setWidth 12 = a := by
  rw [upper_bits_eq_zero a k w hw] at h
  apply BitVec.eq_of_toNat_eq
  rw [BitVec.toNat_setWidth, BitVec.extractLsb'_toNat, Nat.shiftRight_zero, Nat.mod_eq_of_lt h, Nat.mod_eq_of_lt a.isLt]

/-! ### Decoding and encoding -/

/-- Settles O1: the decoder reads the two fields the encoder wrote, and takes the operand's bits back out of the argument
(`extract_low_setWidth`) with zeros above them (`extract_high_setWidth`). -/
theorem decodeOfEncodeIsIdentity : Obligations.DecodeOfEncodeIsIdentity := by
  intro i
  unfold decode
  rw [opField_encode, argField_encode]
  cases i with
  | pushd d => simp [opcodeOf, argOf, extract_low_setWidth d (by decide), extract_high_setWidth d]
  | appcw => simp [opcodeOf, argOf]
  | produce n => simp [opcodeOf, argOf]
  | mute m => simp [opcodeOf, argOf, extract_low_setWidth m (by decide), extract_high_setWidth m]
  | classify => simp [opcodeOf, argOf]

/-- What a word that decodes is, command by command: its opcode, its must-be-zero bits, its operand (30 R73). -/
theorem decode_cases {c : CommandWord} {i : Instr} (h : decode c = .ok i) :
    (opField c = 1 ∧ (argField c).extractLsb' 2 10 = 0 ∧ i = .pushd ((argField c).extractLsb' 0 2)) ∨
    (opField c = 2 ∧ argField c = 0 ∧ i = .appcw) ∨
    (opField c = 3 ∧ i = .produce (argField c)) ∨
    (opField c = 4 ∧ (argField c).extractLsb' 1 11 = 0 ∧ i = .mute ((argField c).extractLsb' 0 1)) ∨
    (opField c = 5 ∧ argField c = 0 ∧ i = .classify) := by
  unfold decode at h
  split_ifs at h with h1 h1' h2 h2' h3 h4 h4' h5 h5' <;> cases h
  · exact .inl ⟨h1, h1', rfl⟩
  · exact .inr (.inl ⟨h2, h2', rfl⟩)
  · exact .inr (.inr (.inl ⟨h3, rfl⟩))
  · exact .inr (.inr (.inr (.inl ⟨h4, h4', rfl⟩)))
  · exact .inr (.inr (.inr (.inr ⟨h5, h5', rfl⟩)))

/-- Settles O2: in each case of `decode_cases` the word has the opcode and the argument its command is encoded with. -/
theorem encodeOfDecodeIsIdentity : Obligations.EncodeOfDecodeIsIdentity := by
  intro c i h
  obtain ⟨hop, harg, rfl⟩ | ⟨hop, harg, rfl⟩ | ⟨hop, rfl⟩ | ⟨hop, harg, rfl⟩ | ⟨hop, harg, rfl⟩ := decode_cases h
  · exact encode_eq_of_fields hop.symm (setWidth_extract_low rfl harg)
  · exact encode_eq_of_fields hop.symm harg.symm
  · exact encode_eq_of_fields hop.symm rfl
  · exact encode_eq_of_fields hop.symm (setWidth_extract_low rfl harg)
  · exact encode_eq_of_fields hop.symm harg.symm

/-! ### The reserved words -/

/-- A word is refused exactly when its opcode is none of the five or a must-be-zero bit is set (30 R70). -/
theorem decode_error_iff (c : CommandWord) :
    (∃ why, decode c = .error why) ↔
      (opField c = 1 → 4 ≤ (argField c).toNat) ∧ (opField c = 2 → (argField c).toNat ≠ 0) ∧ opField c ≠ 3 ∧
      (opField c = 4 → 2 ≤ (argField c).toNat) ∧ (opField c = 5 → (argField c).toNat ≠ 0) := by
  have hpushd : (argField c).extractLsb' 2 10 = 0 ↔ ¬ 4 ≤ (argField c).toNat := by
    rw [upper_bits_eq_zero _ 2 10 rfl, not_le, show 2 ^ 2 = 4 from rfl]
  have hmute : (argField c).extractLsb' 1 11 = 0 ↔ ¬ 2 ≤ (argField c).toNat := by
    rw [upper_bits_eq_zero _ 1 11 rfl, pow_one, not_le]
  have hzero : argField c = 0 ↔ (argField c).toNat = 0 := BitVec.toNat_inj.symm
  unfold decode
  simp only [hpushd, hmute, hzero]
  split_ifs <;> simp_all

/-- A step on a word that does not decode is refused with the decoder's reason (30 R70, 60 R168). -/
theorem step_of_reserved {s : Machine.State} {c : Command} {rest : List Request} {why : DecodeError}
    (hr : s.requests = .command c :: rest) (hd : decode c.word = .error why) :
    Machine.step s = .refused (.reservedWord why) := by
  simp [Machine.step, hr, Machine.performCommand, hd]

/-- Settles O3: `decode_error_iff` in numbers, the word being `4096 * op + arg`. -/
theorem reservedWordsAreRefused : Obligations.ReservedWordsAreRefused := by
  refine ⟨fun c => ?_, fun s c rest why hr hd => step_of_reserved hr hd⟩
  have hword : c.toNat = 4096 * (opField c).toNat + (argField c).toNat := by
    rw [← toNat_append_fields, append_fields]
  have harg := (argField c).isLt
  have hop (k : Nat) (hk : k < 16) : opField c = BitVec.ofNat 4 k ↔ (opField c).toNat = k := by
    rw [← BitVec.toNat_inj, BitVec.toNat_ofNat, Nat.mod_eq_of_lt hk]
  have h1 : opField c = 1 ↔ _ := hop 1 (by decide)
  have h2 : opField c = 2 ↔ _ := hop 2 (by decide)
  have h3 : opField c = 3 ↔ _ := hop 3 (by decide)
  have h4 : opField c = 4 ↔ _ := hop 4 (by decide)
  have h5 : opField c = 5 ↔ _ := hop 5 (by decide)
  rw [decode_error_iff]
  simp only [ne_eq, h1, h2, h3, h4, h5]
  omega

/-- Settles O4: thirteen closed instances of the decoder. -/
theorem specVectorsDecode : Obligations.SpecVectorsDecode := by
  unfold Obligations.SpecVectorsDecode
  decide

end Sys2Proof
end

section
/-! PROOFS. Reset, FAILED and the rules of the whole machine (files 10, 60, 70): what a step performs, what a reset reports
and leaves, and the two invariants. -/

namespace Sys2Proof.Machine

/-! ### What a step performs -/

theorem step_of_command {s : State} {c : Command} {rest : List Request} {i : Instr}
    (hr : s.requests = .command c :: rest) (hd : decode c.word = .ok i) :
    step s = exec i (latchPorts c (takeRequest rest s)) := by
  simp [step, hr, performCommand, hd]

theorem step_of_reset {s : State} {x : Straps} {rest : List Request} (hr : s.requests = .reset x :: rest) :
    step s = .next (resetBlock x (takeRequest rest s)) := by
  simp [step, hr]

theorem step_of_no_request {s : State} (hr : s.requests = []) : step s = .next s := by
  simp [step, hr]

/-- Taking the request that `withFetchWord` placed, with its operands on the ports, gives the state it was placed in. -/
theorem latchPorts_takeRequest_self (s : State) (w : CommandWord) (r : Request) :
    latchPorts ⟨w, s.param, s.symIn⟩ (takeRequest s.requests { s with requests := r :: s.requests }) = s := rfl

/-- Settles O5: `step` at each kind of request, and for a placed word the taken request leaves the state it was placed
in. -/
theorem stepRunsTheDecodedCommand : Obligations.StepRunsTheDecodedCommand := by
  refine ⟨fun s c rest i hr hd => step_of_command hr hd, fun s hr => step_of_no_request hr, fun s w i hw hd => ?_⟩
  have hmod : w % 2 ^ 16 = w := Nat.mod_eq_of_lt hw
  constructor
  · have hstep := step_of_command (s := s.withFetchWord 16 w) rfl (by rw [hmod]; exact hd)
    rwa [State.withFetchWord, latchPorts_takeRequest_self] at hstep
  · simp only [decodeTableWord, hmod, hd, le_refl, if_true]

/-! ### Reset -/

/-- A GAIN passes the fifth check exactly when it is not negative (70 R186). -/
theorem realLess_zero_eq_false (x : RealNum) :
    realLess Config.namedReals x (.rat 0) = false ↔ 0 ≤ realValue Config.namedReals x := by
  rw [realLess_eq_false, realValue_rat, Rat.cast_zero]

/-- The checks on the real numbers themselves: they pass exactly when all five conditions hold (70 R186). -/
theorem checkStraps_eq_none_real {x : Straps} :
    checkStraps x = none ↔
      (x.phaseCount = 8 ∧ x.waveCount = 64 ∧ 1 ≤ x.sps) ∧ x.nthresh = 4 ∧ (1 ≤ x.d ∧ x.d ≤ x.sps) ∧
        (x.frameBits % 2 = 0 ∧ 64 ≤ x.frameBits ∧ ∀ i ∈ x.zeroPos, (i : Int) < x.frameBits) ∧
        0 ≤ realValue Config.namedReals x.gain := by
  rw [checkStraps_eq_none, realLess_zero_eq_false]

theorem resetBlock_fail (x : Straps) (s : State) : (resetBlock x s).fail = (checkStraps x).isSome := by
  cases h : checkStraps x with
  | none => rw [resetBlock_of_ok h]; rfl
  | some code => rw [resetBlock_of_code h]; rfl

theorem resetBlock_errCode (x : Straps) (s : State) : (resetBlock x s).errCode = (checkStraps x).getD 0 := by
  cases h : checkStraps x with
  | none => rw [resetBlock_of_ok h]; rfl
  | some code => rw [resetBlock_of_code h]; rfl

theorem resetBlock_requests (x : Straps) (s : State) : (resetBlock x s).requests = s.requests := by
  cases h : checkStraps x with
  | none => rw [resetBlock_of_ok h]; rfl
  | some code => rw [resetBlock_of_code h]; rfl

/-- Settles O6: the straps pass `checkStraps_eq_none_real`, so the reset initialises, and the latched integers are the
ones given because the checks leave them positive. -/
theorem goodResetInitialisesEverything : Obligations.GoodResetInitialisesEverything := by
  intro s x rest hr hpc hwc hsps hnt hd1 hd2 hfb1 hfb2 hzp hgain
  have hok : checkStraps x = none :=
    checkStraps_eq_none_real.mpr ⟨⟨hpc, hwc, hsps⟩, hnt, ⟨hd1, hd2⟩, ⟨hfb1, hfb2, hzp⟩, hgain⟩
  refine ⟨initialise x (takeRequest rest s), by rw [step_of_reset hr, resetBlock_of_ok hok], ?_⟩
  have hlatch : ((latchStraps x).sps : Int) = x.sps ∧ ((latchStraps x).d : Int) = x.d ∧
      ((latchStraps x).frameBits : Int) = x.frameBits := by
    refine ⟨Int.toNat_of_nonneg ?_, Int.toNat_of_nonneg ?_, Int.toNat_of_nonneg ?_⟩ <;> omega
  obtain ⟨hpc', hwc', _, hnt', _⟩ := latchStraps_legal hok
  obtain ⟨hsps', hd', hfb'⟩ := hlatch
  exact ⟨rfl, rfl, rfl, rfl, rfl, rfl, rfl, rfl, rfl, rfl, rfl, rfl, rfl, rfl, rfl, rfl, rfl, hsps', hd', hfb', rfl, rfl,
    rfl, rfl, rfl, rfl, rfl, rfl, rfl, rfl, rfl, hpc', hwc', hnt', rfl⟩

/-- Settles O7: a reset reports the code `checkStraps` finds, and `checkStraps` tests the five conditions in this
order. -/
theorem resetReportsTheLowestFailingCode : Obligations.ResetReportsTheLowestFailingCode := by
  intro s x rest hr bad1 bad2 bad3 bad4 bad5
  refine ⟨_, step_of_reset hr, resetBlock_requests x _, ?_⟩
  have hzero : x.zeroPos.any (fun i => decide ((i : Int) ≥ x.frameBits)) = true ↔
      ∃ i ∈ x.zeroPos, x.frameBits ≤ (i : Int) := by
    simp only [List.any_eq_true, decide_eq_true_eq, ge_iff_le]
  have hgain : realLess Config.namedReals x.gain (.rat 0) = true ↔ bad5 := by
    rw [realLess_iff, realValue_rat, Rat.cast_zero]
  have hcheck : checkStraps x = if bad1 then some 1 else if bad2 then some 2 else if bad3 then some 3
      else if bad4 then some 4 else if bad5 then some 5 else none := by
    simp only [checkStraps, hzero, hgain, gt_iff_lt, bad1, bad2, bad3, bad4]
  rw [resetBlock_fail, resetBlock_errCode, hcheck]
  refine ⟨fun h1 => ?_, fun h1 h2 => ?_, fun h1 h2 h3 => ?_, fun h1 h2 h3 h4 => ?_, fun h1 h2 h3 h4 h5 => ?_,
    fun h1 h2 h3 h4 h5 => ?_⟩
  · simp only [if_pos h1]; exact ⟨rfl, rfl⟩
  · simp only [if_neg h1, if_pos h2]; exact ⟨rfl, rfl⟩
  · simp only [if_neg h1, if_neg h2, if_pos h3]; exact ⟨rfl, rfl⟩
  · simp only [if_neg h1, if_neg h2, if_neg h3, if_pos h4]; exact ⟨rfl, rfl⟩
  · simp only [if_neg h1, if_neg h2, if_neg h3, if_neg h4, if_pos h5]; exact ⟨rfl, rfl⟩
  · simp only [if_neg h1, if_neg h2, if_neg h3, if_neg h4, if_neg h5]; exact ⟨rfl, rfl⟩

/-! ### FAILED -/

/-- Settles O8: every command is performed through `unlessFailed`. -/
theorem failedBlockRefusesEveryCommand : Obligations.FailedBlockRefusesEveryCommand :=
  fun i _ hf => exec_of_fail i hf

/-- Settles O9: in FAILED a step without a request stays there and a command is refused, so the step is a reset, and one
that leaves `FAIL = 0` found no failing check. -/
theorem onlyAGoodResetLeavesFailed : Obligations.OnlyAGoodResetLeavesFailed := by
  intro s t hs hstep ht
  obtain ⟨_, rfl⟩ | ⟨x, rest, hr, rfl⟩ | ⟨c, rest, i, _, _, hexec⟩ := step_cases hstep
  · rw [hs] at ht
    cases ht
  · refine ⟨x, rest, hr, checkStraps_eq_none_real.mp ?_⟩
    rwa [resetBlock_fail, Option.isSome_eq_false_iff, Option.isNone_iff_eq_none] at ht
  · rw [exec_of_fail (s := latchPorts c (takeRequest rest s)) i hs] at hexec
    cases hexec

/-! ### The invariant of the ranges -/

/-- A command keeps the invariant: it runs outside FAILED only, keeps the ranges, and writes neither `FAIL` nor
`ERRCODE`. -/
theorem exec_keeps_inv {i : Instr} {s t : State} (h : exec i s = .next t) (hs : s.Inv) : t.Inv := by
  obtain ⟨hf, _⟩ := exec_cases h
  obtain ⟨_, hfail, herr, _⟩ := exec_keeps_configuration h
  obtain ⟨hrange, hcode⟩ := hs.1 hf
  refine ⟨fun _ => ⟨exec_keeps_inRange h hrange, herr.trans hcode⟩, fun ht => ?_⟩
  rw [hfail, hf] at ht
  cases ht

/-- Settles O10: without a request nothing changes, a reset leaves the invariant from any state (`resetBlock_inv`), and a
command keeps it; taking the request and latching the ports touch no field it reads. -/
theorem stepKeepsTheInvariant : Obligations.StepKeepsTheInvariant := by
  intro s t hs hstep
  obtain ⟨_, rfl⟩ | ⟨x, rest, _, rfl⟩ | ⟨c, rest, i, _, _, hexec⟩ := step_cases hstep
  · exact hs
  · exact resetBlock_inv x _
  · exact exec_keeps_inv (s := latchPorts c (takeRequest rest s)) hexec hs

/-! ### The variant not selected -/

/-- `t` has the configuration of `s`, and its registers of the variant not selected (10 R29). -/
def KeepsOtherVariant (s t : State) : Prop :=
  t.cfg = s.cfg ∧
  (s.cfg.complex = true → t.sr8 = s.sr8 ∧ t.actW8 = s.actW8) ∧
  (s.cfg.complex = false →
    t.phase = s.phase ∧ t.sr = s.sr ∧ t.prev = s.prev ∧ t.actP = s.actP ∧ t.actW = s.actW)

theorem KeepsOtherVariant.refl (s : State) : KeepsOtherVariant s s :=
  ⟨rfl, fun _ => ⟨rfl, rfl⟩, fun _ => ⟨rfl, rfl, rfl, rfl, rfl⟩⟩

theorem KeepsOtherVariant.trans {s t u : State} (h : KeepsOtherVariant s t) (k : KeepsOtherVariant t u) :
    KeepsOtherVariant s u := by
  obtain ⟨hcfg, hC, hR⟩ := h
  obtain ⟨kcfg, kC, kR⟩ := k
  rw [hcfg] at kC kR
  refine ⟨kcfg.trans hcfg, fun hc => ?_, fun hc => ?_⟩
  · obtain ⟨h1, h2⟩ := hC hc
    obtain ⟨k1, k2⟩ := kC hc
    exact ⟨k1.trans h1, k2.trans h2⟩
  · obtain ⟨h1, h2, h3, h4, h5⟩ := hR hc
    obtain ⟨k1, k2, k3, k4, k5⟩ := kR hc
    exact ⟨k1.trans h1, k2.trans h2, k3.trans h3, k4.trans h4, k5.trans h5⟩

theorem tick_keepsOtherVariant {s t : State} {x : Sample} (h : tick s = .ok (x, t)) : KeepsOtherVariant s t :=
  ⟨by rw [tick_sequencerOnly h], tick_variant h⟩

theorem flushIfMuted_keepsOtherVariant (s : State) : KeepsOtherVariant s (flushIfMuted s) := by
  rw [flushIfMuted_eq]
  exact .refl s

/-- A PRODUCE keeps the registers of the variant not selected, tick by tick. -/
theorem produce_keepsOtherVariant {n : Nat} {s t : State} {xs : List Sample}
    (h : ticks n (flushIfMuted s) = .ok (xs, t)) : KeepsOtherVariant s t :=
  ticks_induction (P := KeepsOtherVariant s) (fun _ _ _ hx hs => hs.trans (tick_keepsOtherVariant hx)) h
    (flushIfMuted_keepsOtherVariant s)

/-- Every command keeps the registers of the variant not selected: only PRODUCE writes registers of a variant at all. -/
theorem exec_keepsOtherVariant {i : Instr} {s t : State} (h : exec i s = .next t) : KeepsOtherVariant s t := by
  obtain ⟨_, ⟨d, _, rfl⟩ | ⟨_, _, hk⟩ | ⟨n, xs, u, _, hx, rfl⟩ | ⟨m, _, rfl⟩ | ⟨_, rfl⟩⟩ := exec_cases h
  · exact .refl s
  · obtain ⟨_, rfl⟩ | ⟨_, ds, _, rfl⟩ := appendCodeword_eq_ok hk <;> exact .refl s
  · exact (produce_keepsOtherVariant hx).trans (.refl u)
  · rw [muteControl_eq]
    exact .refl s
  · exact .refl s

/-- A reset leaves the registers of both variants at 0, or the block FAILED. -/
theorem resetBlock_oneVariant (x : Straps) (s : State) : (resetBlock x s).OneVariant := by
  cases h : checkStraps x with
  | none =>
    rw [resetBlock_of_ok h]
    exact fun _ => ⟨fun _ => ⟨rfl, rfl⟩, fun _ => ⟨rfl, rfl, rfl, rfl, rfl⟩⟩
  | some code =>
    intro hf
    rw [resetBlock_fail, h] at hf
    cases hf

/-- At reset value means: as in the initial state of the same configuration, in the registers of the variant not
selected. -/
theorem oneVariant_iff {s : State} :
    s.OneVariant ↔ (s.fail = false → KeepsOtherVariant (State.initial s.cfg) s) :=
  forall_congr' fun _ => ⟨fun h => ⟨rfl, h⟩, fun ⟨_, h⟩ => h⟩

/-- Settles O11: a reset leaves 0 in the registers of both variants, and a command runs outside FAILED and keeps those of
the variant not selected. -/
theorem stepKeepsTheOtherVariantUntouched : Obligations.StepKeepsTheOtherVariantUntouched := by
  intro s t hs hstep
  obtain ⟨_, rfl⟩ | ⟨x, rest, _, rfl⟩ | ⟨c, rest, i, _, _, hexec⟩ := step_cases hstep
  · exact hs
  · exact resetBlock_oneVariant x _
  · obtain ⟨hf, _⟩ := exec_cases hexec
    have hkeep := exec_keepsOtherVariant hexec
    have hcfg : t.cfg = s.cfg := hkeep.1
    rw [oneVariant_iff, hcfg]
    exact fun _ => KeepsOtherVariant.trans (oneVariant_iff.mp hs hf) hkeep

/-! ### The reset state -/

/-- The straps of the reset state are legal. -/
theorem resetCfg_legal : Legal Config.resetCfg := by
  have hgain : realLess Config.namedReals (.rat 1) (.rat 0) = false := by
    rw [realLess_zero_eq_false, realValue_rat]
    norm_num
  exact ⟨rfl, rfl, by decide, rfl, by decide, by decide, rfl, by decide, by decide, hgain⟩

/-- Settles O13: the straps are legal (`resetCfg_legal`) and every register is the 0 written in `State.initial`. -/
theorem resetStateMeetsTheInvariants : Obligations.ResetStateMeetsTheInvariants := by
  have hinv : State.reset.Inv := by
    refine ⟨fun _ => ⟨⟨resetCfg_legal, by decide, by decide, ?_⟩, rfl⟩, fun hf => by cases hf⟩
    exact List.length_replicate
  exact ⟨hinv, fun _ => ⟨fun _ => ⟨rfl, rfl⟩, fun _ => ⟨rfl, rfl, rfl, rfl, rfl⟩⟩, rfl, rfl, rfl, rfl, rfl, rfl, rfl,
    rfl, rfl, rfl, rfl, rfl, rfl, rfl, rfl, rfl, rfl, rfl⟩

/-! ### Every request is performed -/

/-- Outside FAILED a command answers from a state in range, APPCW when the vector on `PARAM` is within its widths
(60 R167). -/
theorem exec_answers {i : Instr} {s : State} (hs : s.InRange) (hf : s.fail = false)
    (hp : i = .appcw → Params.fits s.cfg.paramW s.param = true) : ∃ t, exec i s = .next t := by
  cases i with
  | pushd d => exact ⟨_, unlessFailed_ok _ hf⟩
  | appcw =>
    obtain ⟨t, ht⟩ := appcwWith_answers (P := Config.framePrims s.cfg.externals) hs (hp rfl)
    exact ⟨t, unlessFailed_next.mpr ⟨hf, ht⟩⟩
  | produce n =>
    obtain ⟨⟨_, _, _, _, _, hd, _⟩, hc, _⟩ := hs
    obtain ⟨xs, t, ht, _⟩ := ticks_answer (s := flushIfMuted s) n.toNat
      (by rw [flushIfMuted_eq]; exact hd) (by rw [flushIfMuted_eq]; exact hc)
    exact ⟨_, execProduce_of_ticks hf ht⟩
  | mute m => exact ⟨_, unlessFailed_ok _ hf⟩
  | classify => exact ⟨_, unlessFailed_ok _ hf⟩

/-- A performable command word decodes, and when it is APPCW's the vector with it is within its widths. -/
theorem performable_command {c : Cfg} {x : Command} (h : performable c (.command x) = true) :
    ∃ i, decode x.word = .ok i ∧ (i = .appcw → Params.fits c.paramW x.param = true) := by
  unfold performable at h
  cases hd : decode x.word with
  | error why => simp [hd] at h
  | ok i => exact ⟨i, rfl, fun hi => by simpa [hd, hi] using h⟩

/-- Settles O14: a reset always answers a next state, and a performable command does by `exec_answers`; what a command
leaves of `FAIL` and `ERRCODE` is `exec_keeps_configuration`. -/
theorem noCommandFailsAtRunTime : Obligations.NoCommandFailsAtRunTime := by
  intro s r rest hs hf hr hp
  cases r with
  | reset x =>
    refine ⟨_, step_of_reset hr, resetBlock_requests x _, ?_⟩
    rintro ⟨c, hc⟩
    cases hc
  | command c =>
    obtain ⟨i, hi, hfits⟩ := performable_command hp
    obtain ⟨t, ht⟩ := exec_answers (s := latchPorts c (takeRequest rest s)) (hs.1 hf).1 hf hfits
    obtain ⟨_, hfail, herr, _, _, hreq, _⟩ := exec_keeps_configuration ht
    exact ⟨t, (step_of_command hr hi).trans ht, hreq, fun _ => ⟨hfail.trans hf, herr⟩⟩

end Sys2Proof.Machine
end

section
/-! PROOFS. What the commands write and what they do not read (10 sections 6 and 9): the frame of the five commands, and
changes of the state that no command sees. -/

namespace Sys2Proof.Machine

/-! ### The frame of the commands -/

/-- A PRODUCE writes the sequencer's registers, the queue and its output at most (10 R32). -/
theorem produce_sequencerOnly {n : Nat} {s t : State} {xs : List Sample} (h : ticks n (flushIfMuted s) = .ok (xs, t)) :
    SequencerOnly s t :=
  (flushIfMuted_sequencerOnly s).trans (ticks_sequencerOnly h)

/-- Settles O15: each command's effect as `exec_cases` gives it; what none of them writes is
`exec_keeps_configuration`. -/
theorem commandsWriteOnlyTheirOwnState : Obligations.CommandsWriteOnlyTheirOwnState := by
  intro i s t h
  have hkeep := exec_keeps_configuration h
  obtain ⟨_, ⟨d, rfl, rfl⟩ | ⟨rfl, _, hk⟩ | ⟨n, xs, u, rfl, hx, rfl⟩ | ⟨m, rfl, rfl⟩ | ⟨rfl, rfl⟩⟩ := exec_cases h
  · exact ⟨fun _ => ⟨rfl, rfl, rfl, rfl, rfl, rfl, rfl, rfl, rfl, rfl⟩, fun _ => rfl, fun _ => ⟨rfl, rfl, rfl⟩,
      nofun, fun _ _ => rfl, hkeep⟩
  · obtain ⟨_, rfl⟩ | ⟨_, ds, _, rfl⟩ := appendCodeword_eq_ok hk <;>
      exact ⟨fun _ => ⟨rfl, rfl, rfl, rfl, rfl, rfl, rfl, rfl, rfl, rfl⟩, fun _ => rfl, fun hi => absurd rfl hi,
        nofun, fun _ _ => rfl, hkeep⟩
  · have hu := produce_sequencerOnly hx
    refine ⟨fun hi => absurd rfl (hi n), fun _ => ?_, fun _ => ?_, nofun, fun hi => absurd rfl (hi n), hkeep⟩
    · rw [hu]
      rfl
    · rw [hu]
      exact ⟨rfl, rfl, rfl⟩
  · rw [muteControl_eq] at hkeep ⊢
    exact ⟨fun _ => ⟨rfl, rfl, rfl, rfl, rfl, rfl, rfl, rfl, rfl, rfl⟩, fun hi => absurd rfl (hi m),
      fun _ => ⟨rfl, rfl, rfl⟩, nofun, fun _ _ => rfl, hkeep⟩
  · exact ⟨fun _ => ⟨rfl, rfl, rfl, rfl, rfl, rfl, rfl, rfl, rfl, rfl⟩, fun _ => rfl, fun _ => ⟨rfl, rfl, rfl⟩,
      fun _ => rfl, fun _ hi => absurd rfl hi, hkeep⟩

/-! ### What APPCW answers -/

/-- Codewords one to eight: stored at the count before the increment (43 R144). -/
theorem appendCodeword_of_lt {P : FramePrims} {u : Params} {s : State} (h : s.cwCount.toNat < 8) :
    appendCodeword P u s =
      .ok (storeCodeword (interleave P s.cfg s.frame (encodeParams P s.cfg u) s.cwCount.toNat) s) := by
  unfold appendCodeword Config.cwPerUnit
  rw [if_neg (by omega), if_neg (by omega)]

/-- The ninth codeword: its unit at the tail of the queue, the counters stepped, the frame cleared (43 R148, R149). -/
theorem appendCodeword_of_eight {P : FramePrims} {u : Params} {s : State} {ds : List Dibit} (h : s.cwCount.toNat = 8)
    (hds : unitDibits P s.cfg s.unit (interleave P s.cfg s.frame (encodeParams P s.cfg u) 8) = .ok ds) :
    appendCodeword P u s = .ok { s with
      queue := s.queue ++ ds, cwCount := 0, unit := s.unit + 1, frame := List.replicate s.cfg.frameBits false } := by
  unfold appendCodeword Config.cwPerUnit
  rw [if_neg (by omega), if_pos (by omega), h, hds]
  exact congrArg Except.ok (finishUnit_eq ds _)

/-- APPCW with its fields in their widths is the codeword appended. -/
theorem exec_appcw_of_ok {s t : State} (hf : s.fail = false) (hp : Params.fits s.cfg.paramW s.param = true)
    (h : appendCodeword (Config.framePrims s.cfg.externals) s.param s = .ok t) : exec .appcw s = .next t :=
  unlessFailed_next.mpr ⟨hf, appcwWith_eq_ok.mpr ⟨hp, h⟩⟩

/-! ### Changes of the state that no command sees -/

/-- `f` changes registers of the datapath and, in the configuration, `FLOAT_OUT` and `PHASE_INC` at most: it commutes with
every update a command makes outside the symbol boundary. -/
structure OutsideCommands (f : State → State) : Prop where
  cfg : ∀ s, ∃ b q, (f s).cfg = { s.cfg with floatOut := b, phaseInc := q } := by intros; exact ⟨_, _, rfl⟩
  fail : ∀ s, (f s).fail = s.fail := by intros; rfl
  cursor : ∀ s, (f s).cursor = s.cursor := by intros; rfl
  mute : ∀ s, (f s).mute = s.mute := by intros; rfl
  actV : ∀ s, (f s).actV = s.actV := by intros; rfl
  queue : ∀ s, (f s).queue = s.queue := by intros; rfl
  param : ∀ s, (f s).param = s.param := by intros; rfl
  symIn : ∀ s, (f s).symIn = s.symIn := by intros; rfl
  frame : ∀ s, (f s).frame = s.frame := by intros; rfl
  cwCount : ∀ s, (f s).cwCount = s.cwCount := by intros; rfl
  unit : ∀ s, (f s).unit = s.unit := by intros; rfl
  qFlush : ∀ s, qFlush (f s) = f (qFlush s) := by intros; rfl
  qPush : ∀ d s, qPush d (f s) = f (qPush d s) := by intros; rfl
  setMute : ∀ m s, setMute m (f s) = f (setMute m s) := by intros; rfl
  advance : ∀ s k v, { f s with cursor := k, actV := v } = f { s with cursor := k, actV := v } := by intros; rfl
  emitSamples : ∀ n xs s, emitSamples n xs (f s) = f (emitSamples n xs s) := by intros; rfl
  emitDibit : ∀ d s, emitDibit d (f s) = f (emitDibit d s) := by intros; rfl
  storeCodeword : ∀ g s, storeCodeword g (f s) = f (storeCodeword g s) := by intros; rfl
  finishUnit : ∀ s q g u, { f s with queue := q, cwCount := 0, unit := u, frame := g } =
    f { s with queue := q, cwCount := 0, unit := u, frame := g } := by intros; rfl

/-- In configuration `c` the sequencer's boundary and its ROM reads do not see `f` either. -/
def OutsideBoundary (f : State → State) (c : Cfg) : Prop :=
  ∀ v : State, v.cfg = c → romOf (f v) = romOf v ∧ ∀ d rest, enterSymbol d rest (f v) = f (enterSymbol d rest v)

section
variable {f : State → State} (hf : OutsideCommands f)
include hf

theorem OutsideCommands.advanceCursor (s : State) : advanceCursor (f s) = f (advanceCursor s) := by
  obtain ⟨b, q, hcfg⟩ := hf.cfg s
  have hnext : nextCursor (f s) = nextCursor s := by simp only [nextCursor, hf.cursor, hcfg]
  have hact : ((f s).actV && decide ((f s).cursor + (f s).cfg.d < (f s).cfg.sps)) =
      (s.actV && decide (s.cursor + s.cfg.d < s.cfg.sps)) := by simp only [hf.actV, hf.cursor, hcfg]
  rw [advanceCursor_eq, advanceCursor_eq, hnext, hact]
  exact hf.advance s _ _

theorem OutsideCommands.flushIfMuted (s : State) : flushIfMuted (f s) = f (flushIfMuted s) := by
  unfold Machine.flushIfMuted
  rw [hf.mute]
  split
  · exact hf.qFlush s
  · rfl

theorem OutsideCommands.muteControl (m : Bool) (s : State) : muteControl m (f s) = f (muteControl m s) := by
  cases m with
  | true => exact (congrArg _ (hf.setMute true s)).trans (hf.qFlush _)
  | false => exact hf.setMute false s

theorem OutsideCommands.tick {s t : State} {x : Sample} (hb : OutsideBoundary f s.cfg) (h : tick s = .ok (x, t)) :
    tick (f s) = .ok (x, f t) := by
  refine tick_commute f hf.cursor hf.mute hf.actV hf.queue (fun v => ?_) (fun v => ?_) hf.qFlush hf.advanceCursor
    (fun v hv => (hb v hv).1) (hb s rfl).2 h
  all_goals
    obtain ⟨b, q, hcfg⟩ := hf.cfg v
    rw [hcfg]
  rfl

theorem OutsideCommands.ticks {n : Nat} {s t : State} {xs : List Sample} (hb : OutsideBoundary f s.cfg)
    (h : ticks n s = .ok (xs, t)) : ticks n (f s) = .ok (xs, f t) := by
  refine ticks_commute f (fun v => v.cfg = s.cfg) (fun v w x hx hv => ?_) (fun v w x hv hx => ?_) rfl h
  · rw [tick_sequencerOnly hx]
    exact hv
  · exact hf.tick (hv ▸ hb) hx

theorem OutsideCommands.appendCodeword {P : FramePrims} {u : Params} {s t : State}
    (h : appendCodeword P u s = .ok t) : appendCodeword P u (f s) = .ok (f t) := by
  obtain ⟨b, q, hcfg⟩ := hf.cfg s
  obtain ⟨h8, rfl⟩ | ⟨h8, ds, hds, rfl⟩ := appendCodeword_eq_ok h
  · rw [appendCodeword_of_lt (by rwa [hf.cwCount]), hf.storeCodeword, hf.cwCount, hf.frame, hcfg]
    rfl
  · rw [appendCodeword_of_eight (ds := ds) (by rwa [hf.cwCount]) (by rw [hf.frame, hf.unit, hcfg]; exact hds), hf.queue,
      hf.unit, hf.finishUnit, hcfg]

/-- A command answers alike in `s` and in `f s`: the next states differ by `f` and nothing else. -/
theorem OutsideCommands.exec {i : Instr} {s t : State} (hb : OutsideBoundary f s.cfg) (h : exec i s = .next t) :
    exec i (f s) = .next (f t) := by
  obtain ⟨hfail, hcases⟩ := exec_cases h
  obtain ⟨b, q, hcfg⟩ := hf.cfg s
  have hfail' : (f s).fail = false := (hf.fail s).trans hfail
  obtain ⟨d, rfl, rfl⟩ | ⟨rfl, hp, hk⟩ | ⟨n, xs, u, rfl, hx, rfl⟩ | ⟨m, rfl, rfl⟩ | ⟨rfl, rfl⟩ := hcases
  · rw [← hf.qPush]
    exact unlessFailed_ok _ hfail'
  · refine exec_appcw_of_ok hfail' ?_ ?_
    · rw [hcfg, hf.param]
      exact hp
    · rw [hcfg, hf.param]
      exact hf.appendCodeword hk
  · have hcfg' : (Machine.flushIfMuted s).cfg = s.cfg := by rw [flushIfMuted_eq]
    rw [← hf.emitSamples]
    refine execProduce_of_ticks hfail' ?_
    rw [hf.flushIfMuted]
    exact hf.ticks (hcfg' ▸ hb) hx
  · rw [← hf.muteControl]
    exact unlessFailed_ok _ hfail'
  · have hcl : Machine.exec .classify (f s) =
        .next (Machine.emitDibit (sliceReal Config.namedReals (f s).cfg.t (f s).symIn) (f s)) := unlessFailed_ok _ hfail'
    rw [hcl, hf.emitDibit, hcfg, hf.symIn]

end

/-! ### The other variant's registers and FLOAT_OUT -/

/-- The registers of the real variant overwritten. -/
def withRealRegisters (a b : BitVec 8) (s : State) : State := { s with sr8 := a, actW8 := b }

/-- The registers of the complex variant overwritten. -/
def withComplexRegisters (p q : BitVec 3) (a b : BitVec 6) (d : Dibit) (s : State) : State :=
  { s with phase := p, actP := q, sr := a, actW := b, prev := d }

/-- `FLOAT_OUT` overwritten. -/
def withFloatOut (b : Bool) (s : State) : State := { s with cfg := { s.cfg with floatOut := b } }

theorem withRealRegisters_outsideCommands (a b : BitVec 8) : OutsideCommands (withRealRegisters a b) where

theorem withComplexRegisters_outsideCommands (p q : BitVec 3) (a b : BitVec 6) (d : Dibit) :
    OutsideCommands (withComplexRegisters p q a b d) where

theorem withFloatOut_outsideCommands (b : Bool) : OutsideCommands (withFloatOut b) where

theorem withRealRegisters_outsideBoundary (a b : BitVec 8) {c : Cfg} (hc : c.complex = true) :
    OutsideBoundary (withRealRegisters a b) c := by
  rintro v rfl
  simp [romOf, enterSymbol, boundaryOf, withRealRegisters, boundaryC, hc]

theorem withComplexRegisters_outsideBoundary (p q : BitVec 3) (a b : BitVec 6) (d : Dibit) {c : Cfg}
    (hc : c.complex = false) : OutsideBoundary (withComplexRegisters p q a b d) c := by
  rintro v rfl
  simp [romOf, enterSymbol, boundaryOf, withComplexRegisters, boundaryR, hc]

theorem withFloatOut_outsideBoundary (b : Bool) (c : Cfg) : OutsideBoundary (withFloatOut b) c := by
  intro v _
  refine ⟨rfl, fun d rest => ?_⟩
  cases hc : v.cfg.complex <;> simp [enterSymbol, boundaryOf, withFloatOut, boundaryC, boundaryR, phaseIncOf, hc]

/-- Settles O12: overwriting the other variant's registers is seen by no command of the variant selected. -/
theorem otherVariantIsNeverRead : Obligations.OtherVariantIsNeverRead :=
  ⟨fun _ _ _ a b hc h =>
      (withRealRegisters_outsideCommands a b).exec (withRealRegisters_outsideBoundary a b hc) h,
    fun _ _ _ p q a b d hc h =>
      (withComplexRegisters_outsideCommands p q a b d).exec (withComplexRegisters_outsideBoundary p q a b d hc) h⟩

/-- Settles O16: overwriting `FLOAT_OUT` is seen by no command. -/
theorem floatOutIsNeverRead : Obligations.FloatOutIsNeverRead :=
  fun _ s _ b h => (withFloatOut_outsideCommands b).exec (withFloatOut_outsideBoundary b s.cfg) h

end Sys2Proof.Machine
end

section
/-! PROOFS. The symbol sequencer (file 41): PUSHD and MUTE, the symbol boundaries, and one sample. -/

namespace Sys2Proof.Machine

/-! ### PUSHD and MUTE -/

/-- Settles O18: the queue operations as they are written, and `QPop` by `qPop_eq_none` and `qPop_eq_some`. -/
theorem queuePrimitivesAreFifo : Obligations.QueuePrimitivesAreFifo :=
  fun _ _ => ⟨rfl, rfl, qPop_eq_none, fun _ rest hq => qPop_eq_some.mpr ⟨rest, hq, rfl⟩⟩

theorem exec_pushd {s : State} (d : BitVec 2) (hf : s.fail = false) : exec (.pushd d) s = .next (qPush d s) :=
  unlessFailed_ok _ hf

theorem exec_mute {s : State} (m : BitVec 1) (hf : s.fail = false) :
    exec (.mute m) s = .next { s with mute := muteOperand m, queue := if muteOperand m then [] else s.queue } := by
  rw [← muteControl_eq]
  exact unlessFailed_ok _ hf

theorem exec_mute_one {s : State} (hf : s.fail = false) :
    exec (.mute 1) s = .next { s with mute := true, queue := [] } :=
  exec_mute 1 hf

theorem exec_mute_zero {s : State} (hf : s.fail = false) : exec (.mute 0) s = .next { s with mute := false } :=
  exec_mute 0 hf

/-- Settles O19: PUSHD is `qPush`, and its word's number is opcode 1 above the dibit (`encode_toNat`). -/
theorem pushdAppendsOneDibit : Obligations.PushdAppendsOneDibit := by
  intro d s hf
  refine ⟨exec_pushd d hf, ?_⟩
  have hd : d.toNat < 4096 := d.isLt.trans (by decide)
  simp [encode_toNat, opcodeOf, argOf, Nat.mod_eq_of_lt hd]

/-- Settles O20: `exec_mute` at the two operands. -/
theorem muteSetsTheFlagAndFlushes : Obligations.MuteSetsTheFlagAndFlushes :=
  fun _ hf => ⟨exec_mute_one hf, exec_mute_zero hf⟩

/-! ### A muted request -/

/-- A muted PRODUCE flushes and emits ZERO samples, and moves nothing else (41 R105). -/
theorem exec_produce_muted {s : State} (n : BitVec 12) (hf : s.fail = false) (hm : s.mute = true) :
    exec (.produce n) s = .next { s with
      queue := [], out := s.out ++ List.replicate n.toNat (.sample (zeroOf s.cfg)), counts := s.counts ++ [n.toNat] } := by
  have hticks : ticks n.toNat (flushIfMuted s) = .ok (List.replicate n.toNat (zeroOf s.cfg), qFlush s) := by
    rw [flushIfMuted_of_mute hm]
    exact ticks_muted hm rfl
  rw [← List.map_replicate]
  exact execProduce_of_ticks hf hticks

/-- Settles O34: a muted request flushes and its ticks are the ZERO ticks of `ticks_muted`. -/
theorem mutedProduceFlushesAndEmitsZeros : Obligations.MutedProduceFlushesAndEmitsZeros :=
  fun n _ hf hm => exec_produce_muted n hf hm

/-- Settles O21: the three commands one after another, each with the whole next state it answers. -/
theorem mutedSpanKeepsTheDatapath : Obligations.MutedSpanKeepsTheDatapath := by
  intro n s t u v hst htu huv
  obtain ⟨hf, _⟩ := exec_cases hst
  rw [exec_mute_one hf] at hst
  cases hst
  rw [exec_produce_muted (s := { s with mute := true, queue := [] }) n hf rfl] at htu
  cases htu
  have hunmute := exec_mute_zero (s := { s with
    mute := true, queue := [], out := s.out ++ List.replicate n.toNat (.sample (zeroOf s.cfg))
    counts := s.counts ++ [n.toNat] }) hf
  rw [hunmute] at huv
  cases huv
  rfl

/-! ### The symbol boundaries -/

/-- A dibit shifted in, as a number before the mask: four times the register and the dibit. -/
theorem shiftInDibit_eq_ofNat {w : Nat} (v : BitVec w) (d : Dibit) :
    shiftInDibit v d = BitVec.ofNat w (4 * v.toNat + d.toNat) := by
  apply BitVec.eq_of_toNat_eq
  rw [shiftInDibit_toNat, Nat.and_two_pow_sub_one_eq_mod, BitVec.toNat_ofNat, ← Nat.shiftLeft_add_eq_or_of_lt d.isLt,
    Nat.shiftLeft_eq, mul_comm]

/-- Settles O24: the shift is `shiftInDibit_toNat` at width 8. -/
theorem realBoundaryShiftsFourDibits : Obligations.RealBoundaryShiftsFourDibits :=
  fun d s => ⟨shiftInDibit_toNat s.sr8 d, rfl, rfl, rfl⟩

/-- Settles O26: three shifts of `shiftInDibit_sr` from 0 stay below 64, and the fourth loses the dibit at the top. -/
theorem shiftRegisterHoldsThreeDibits : Obligations.ShiftRegisterHoldsThreeDibits := by
  intro s d0 d1 d2 d3 hsr
  have h0 := d0.isLt
  have h1 := d1.isLt
  have h2 := d2.isLt
  have h3 := d3.isLt
  have hzero : s.sr.toNat = 0 := by rw [hsr]; rfl
  simp only [boundaryC_actW, boundaryC_sr, shiftInDibit_sr, hzero]
  omega

/-- The phase after any sequence of boundaries: the increments of all dibits but the newest (41 R109). -/
theorem foldl_boundaryC_phase (ds : List Dibit) (s : State) :
    ((ds.foldl (fun a d => boundaryC d a) s).phase.toNat : Int) =
      ((s.phase.toNat : Int) + (((s.prev :: ds).take ds.length).map (phaseIncOf s.cfg)).sum) % 8 := by
  induction ds generalizing s with
  | nil =>
    have hlt := s.phase.isLt
    simp
    omega
  | cons d ds ih =>
    have hstep := boundaryC_phase_toNat d s
    rw [List.foldl_cons, ih, hstep]
    simp only [boundaryC_prev, boundaryC_cfg, List.length_cons, List.take_succ_cons, List.map_cons, List.sum_cons]
    omega

/-- Settles O25: the phase is `foldl_boundaryC_phase`; the last boundary selects the phase before it, which is that lemma
on the dibits but the last. -/
theorem phaseIsTheSumOfPastIncrements : Obligations.PhaseIsTheSumOfPastIncrements := by
  intro s ds t inc
  refine ⟨foldl_boundaryC_phase ds s, ?_, ?_⟩
  · intro hne
    obtain ⟨es, d, rfl⟩ := (List.eq_nil_or_concat' ds).resolve_left hne
    have hsel : t.actP = (es.foldl (fun a d => boundaryC d a) s).phase := by simp [t]
    have hlen : (es ++ [d]).length - 1 = es.length := by simp
    have htake : (s.prev :: (es ++ [d])).take es.length = (s.prev :: es).take es.length := by
      rw [← List.cons_append, List.take_append_of_le_length (by simp)]
    rw [hsel, foldl_boundaryC_phase, hlen]
    simp only [inc, htake]
  · rcases List.eq_nil_or_concat' ds with rfl | ⟨es, d, rfl⟩
    · rfl
    · simp [t]

/-! ### One sample -/

/-- The cursor after a sample, in the words of 41 R97. -/
theorem nextCursor_eq (s : State) :
    nextCursor s =
      if s.cursor + s.cfg.d < s.cfg.sps then s.cursor + s.cfg.d else s.cursor + s.cfg.d - s.cfg.sps := by
  unfold nextCursor
  split_ifs <;> omega

/-- A tick in IDLE with a dibit waiting is the boundary and the tick inside the symbol it begins (D12). -/
theorem tick_eq_tick_enterSymbol {s : State} {d : Dibit} {rest : List Dibit} (hm : s.mute = false) (ha : s.actV = false)
    (hq : s.queue = d :: rest) (hk : s.cursor ≤ s.cfg.sps) : tick s = tick (enterSymbol d rest s) := by
  rw [tick_boundary hm ha hq hk, tick_emitting (by simpa using hm) (by simp) (by simpa using hk)]

/-- Settles O29: one tick at a boundary, of the complex variant. -/
theorem produceOneAtABoundary : Obligations.ProduceOneAtABoundary := by
  intro s d rest hf hidle hc hq hk
  obtain ⟨hm, ha⟩ := mode_eq_idle.mp hidle
  have henter : enterSymbol d rest s = boundaryC d { s with queue := rest } := by simp [enterSymbol, boundaryOf, hc]
  rw [exec_produce_one hf hm (tick_boundary hm ha hq hk), henter, advanceCursor_eq, nextCursor_eq]
  simp [boundaryC, romOf, hc, shiftInDibit_eq_ofNat, addPhase]

/-- Settles O30: one tick at a boundary, of the real variant. -/
theorem produceOneAtARealBoundary : Obligations.ProduceOneAtARealBoundary := by
  intro s d rest hf hidle hc hq hk
  obtain ⟨hm, ha⟩ := mode_eq_idle.mp hidle
  have henter : enterSymbol d rest s = boundaryR d { s with queue := rest } := by simp [enterSymbol, boundaryOf, hc]
  rw [exec_produce_one hf hm (tick_boundary hm ha hq hk), henter, advanceCursor_eq, nextCursor_eq]
  simp [boundaryR, romOf, hc, shiftInDibit_eq_ofNat]

/-- Settles O31: one tick of the active entry, which advances the cursor (`advanceCursor_eq`). -/
theorem produceOneInsideASymbol : Obligations.ProduceOneInsideASymbol := by
  intro s hf hemit hk
  obtain ⟨hm, ha⟩ := mode_eq_emitting.mp hemit
  rw [exec_produce_one hf hm (tick_emitting hm ha hk), advanceCursor_eq, nextCursor_eq, ha, Bool.true_and]
  rfl

/-- Pushing a dibit before or after a tick in EMITTING is the same: the tick leaves the queue alone (41 R112). -/
theorem tick_emitting_qPush {s : State} (d : Dibit) (hm : s.mute = false) (ha : s.actV = true)
    (hk : s.cursor ≤ s.cfg.sps) : tick (qPush d s) = .ok (romOf s, qPush d (advanceCursor s)) := by
  have hpush : qPush d (advanceCursor s) = { advanceCursor s with queue := s.queue ++ [d] } := by
    rw [advanceCursor_eq]
    rfl
  rw [hpush]
  exact tick_emitting_withQueue (s.queue ++ [d]) hm ha hk

/-- Settles O22: in EMITTING the sample answers only with the cursor in range, and then the pushed dibit passes over the
tick by `tick_emitting_qPush`. -/
theorem pushDuringASymbolWaits : Obligations.PushDuringASymbolWaits := by
  intro d s t u hemit hpush hprod
  obtain ⟨hm, ha⟩ := mode_eq_emitting.mp hemit
  obtain ⟨hf, _⟩ := exec_cases hpush
  rw [exec_pushd d hf] at hpush
  cases hpush
  have hk : s.cursor ≤ s.cfg.sps := by
    by_contra hk
    obtain ⟨_, xs, w, hticks, _⟩ := execProduce_next.mp hprod
    rw [flushIfMuted_of_not_mute (by exact hm)] at hticks
    obtain ⟨x, w', ys, htick, _⟩ := ticks_succ_eq_ok.mp hticks
    rw [tick_out_of_range (s := qPush d s) hm (.inl ha) (by simpa using hk)] at htick
    cases htick
  rw [exec_produce_one (s := qPush d s) hf hm (tick_emitting_qPush d hm ha hk)] at hprod
  cases hprod
  refine ⟨_, exec_produce_one hf hm (tick_emitting hm ha hk), exec_pushd d ?_⟩
  rw [advanceCursor_eq]
  exact hf

/-! ### The transition table -/

/-- Inside a symbol the mode after a sample is told by the cursor (41 R106). -/
theorem advanceCursor_mode {s : State} (hm : s.mute = false) (ha : s.actV = true) :
    (advanceCursor s).mode = if s.cursor + s.cfg.d < s.cfg.sps then .emitting else .idle := by
  rw [advanceCursor_eq]
  simp [State.mode, hm, ha]

/-- What one unmuted sample leads to: IDLE at an underrun, and else what the cursor tells. -/
theorem exec_produce_one_mode {s : State} (hf : s.fail = false) (hm : s.mute = false) (hk : s.cursor ≤ s.cfg.sps) :
    ∃ t, exec (.produce 1) s = .next t ∧ t.mode =
      if s.actV = false ∧ s.queue = [] then .idle
      else if s.cursor + s.cfg.d < s.cfg.sps then .emitting else .idle := by
  cases ha : s.actV with
  | true =>
    refine ⟨_, exec_produce_one hf hm (tick_emitting hm ha hk), ?_⟩
    exact (advanceCursor_mode hm ha).trans (by simp)
  | false =>
    cases hq : s.queue with
    | nil =>
      refine ⟨_, exec_produce_one hf hm (tick_underrun hm ha hq), ?_⟩
      exact (mode_eq_idle.mpr ⟨hm, ha⟩).trans (by simp)
    | cons d rest =>
      refine ⟨_, exec_produce_one hf hm (tick_boundary hm ha hq hk), ?_⟩
      exact (advanceCursor_mode (s := enterSymbol d rest s) (by simpa using hm) (by simp)).trans (by simp)

/-- Settles O17: the rows of a tick are `exec_produce_one_mode` and the muted request; those of MUTE and PUSHD are read off
their next states. -/
theorem modeFollowsTheTransitionTable : Obligations.ModeFollowsTheTransitionTable := by
  intro s hf hk
  refine ⟨?_, ⟨_, exec_mute_one hf, rfl, rfl⟩, ⟨_, exec_mute_zero hf, rfl, fun _ => rfl, fun hmode => ?_⟩,
    fun d => ⟨_, exec_pushd d hf, rfl⟩⟩
  · cases hm : s.mute with
    | true =>
      have hmode : s.mode = .muted := mode_eq_muted.mpr hm
      refine ⟨_, exec_produce_muted 1 hf hm, ?_⟩
      rw [hmode]
      exact ⟨nofun, nofun, nofun, nofun, nofun, fun _ => ⟨mode_eq_muted.mpr hm, rfl⟩⟩
    | false =>
      obtain ⟨t, ht, hmode⟩ := exec_produce_one_mode hf hm hk
      have hemit (h : s.mode = .emitting) : ¬ (s.actV = false ∧ s.queue = []) := by
        rw [(mode_eq_emitting.mp h).2]
        exact fun hidle => nomatch hidle.1
      refine ⟨t, ht, fun h hq => ?_, fun _ hq hlt => ?_, fun _ hq hge => ?_, fun h hlt => ?_, fun h hge => ?_, fun h => ?_⟩
      · rw [hmode, if_pos ⟨(mode_eq_idle.mp h).2, hq⟩]
      · rw [hmode, if_neg fun hidle => hq hidle.2, if_pos hlt]
      · rw [hmode, if_neg fun hidle => hq hidle.2, if_neg hge.not_gt]
      · rw [hmode, if_neg (hemit h), if_pos hlt]
      · rw [hmode, if_neg (hemit h), if_neg hge.not_gt]
      · rw [mode_eq_muted, hm] at h
        cases h
  · rw [ne_eq, mode_eq_muted, Bool.not_eq_true] at hmode
    simp [State.mode, hmode]

end Sys2Proof.Machine
end

section
/-! PROOFS. PRODUCE (file 41): the count, the frame, splitting, underrun, the length of a symbol, and the modulator as a
whole. -/

namespace Sys2Proof.Machine

/-- Outside FAILED and not muted a PRODUCE is its ticks, with the samples out and the count returned (41 R100). -/
theorem exec_produce_unmuted {n : BitVec 12} {s t : State} {xs : List Sample} (hf : s.fail = false) (hm : s.mute = false)
    (h : ticks n.toNat s = .ok (xs, t)) : exec (.produce n) s = .next (emitSamples n.toNat xs t) := by
  rw [← flushIfMuted_of_not_mute hm] at h
  exact execProduce_of_ticks hf h

/-! ### Count and kind of the samples -/

@[simp] theorem zeroOf_isComplex (c : Cfg) : (zeroOf c).isComplex = c.complex := by
  unfold zeroOf
  split <;> simp_all [Sample.isComplex]

@[simp] theorem romOf_isComplex (s : State) : (romOf s).isComplex = s.cfg.complex := by
  unfold romOf
  split <;> simp_all [Sample.isComplex]

/-- A tick's sample is of the variant's kind (30 R61). -/
theorem tick_isComplex {s t : State} {x : Sample} (h : tick s = .ok (x, t)) : x.isComplex = s.cfg.complex := by
  obtain ⟨_, rfl, _⟩ | ⟨_, _, _, rfl, _⟩ | ⟨_, _, _, rfl, _⟩ | ⟨d, rest, _, _, _, _, rfl, _⟩ := tick_cases h <;> simp

theorem ticks_isComplex {n : Nat} {s t : State} {xs : List Sample} (h : ticks n s = .ok (xs, t)) :
    ∀ x ∈ xs, x.isComplex = s.cfg.complex := by
  induction n generalizing s xs with
  | zero =>
    obtain ⟨rfl, _⟩ : [] = xs ∧ s = t := by simpa [ticks] using h
    nofun
  | succ n ih =>
    obtain ⟨x, s', ys, hx, hy, rfl⟩ := ticks_succ_eq_ok.mp h
    have hcfg : s'.cfg = s.cfg := by rw [tick_sequencerOnly hx]
    rintro y (_ | ⟨_, hmem⟩)
    · exact tick_isComplex hx
    · rw [← hcfg]
      exact ih hy y hmem

/-- Settles O27: the ticks of the request answer (`ticks_answer`), one sample each (`ticks_length`), of the variant's kind
(`ticks_isComplex`). -/
theorem produceEmitsExactlyTheCount : Obligations.ProduceEmitsExactlyTheCount := by
  intro n s hf hc hd
  have hcfg : (flushIfMuted s).cfg = s.cfg := by rw [flushIfMuted_eq]
  obtain ⟨xs, u, hticks, hcu, hcfgu⟩ := ticks_answer (s := flushIfMuted s) n.toNat
    (by rw [flushIfMuted_eq]; exact hd) (by rw [flushIfMuted_eq]; exact hc)
  have hout : u.out = s.out ∧ u.counts = s.counts := by
    rw [produce_sequencerOnly hticks]
    exact ⟨rfl, rfl⟩
  refine ⟨_, xs, execProduce_of_ticks hf hticks, ticks_length hticks, fun x hx => ?_, ?_, ?_, ?_⟩
  · rw [← hcfg]
    exact ticks_isComplex hticks x hx
  · rw [emitSamples_out, hout.1]
  · rw [emitSamples_counts, hout.2]
  · rwa [hcfgu, hcfg] at hcu

/-! ### The queue -/

/-- A tick takes nothing from the queue or its head, outside MUTED (41 R102). -/
theorem tick_queue {s t : State} {x : Sample} (h : tick s = .ok (x, t)) (hm : s.mute = false) :
    ∃ popped, s.queue = popped ++ t.queue ∧ popped.length ≤ 1 := by
  obtain ⟨hm', _⟩ | ⟨_, _, _, _, rfl⟩ | ⟨_, _, _, _, rfl⟩ | ⟨d, rest, _, _, hq, _, _, rfl⟩ := tick_cases h
  · rw [hm] at hm'
    cases hm'
  · exact ⟨[], rfl, Nat.zero_le 1⟩
  · exact ⟨[], by rw [advanceCursor_eq]; rfl, Nat.zero_le 1⟩
  · exact ⟨[d], by rw [advanceCursor_eq]; simpa using hq, le_refl 1⟩

/-- Ticks take at most one dibit each, from the head. -/
theorem ticks_queue {n : Nat} {s t : State} {xs : List Sample} (h : ticks n s = .ok (xs, t)) (hm : s.mute = false) :
    ∃ popped, s.queue = popped ++ t.queue ∧ popped.length ≤ n := by
  induction n generalizing s xs with
  | zero =>
    obtain ⟨_, rfl⟩ : [] = xs ∧ s = t := by simpa [ticks] using h
    exact ⟨[], rfl, le_refl 0⟩
  | succ n ih =>
    obtain ⟨x, s', ys, hx, hy, _⟩ := ticks_succ_eq_ok.mp h
    have hm' : s'.mute = false := by rw [tick_sequencerOnly hx]; exact hm
    obtain ⟨p, hp, hplen⟩ := tick_queue hx hm
    obtain ⟨q, hq, hqlen⟩ := ih hy hm'
    refine ⟨p ++ q, by rw [hp, hq, List.append_assoc], ?_⟩
    rw [List.length_append]
    omega

/-- What a request leaves in the queue of a muted block: nothing. -/
theorem produce_queue_of_mute {n : Nat} {s t : State} {xs : List Sample} (h : ticks n (flushIfMuted s) = .ok (xs, t))
    (hm : s.mute = true) : t.queue = [] := by
  rw [flushIfMuted_of_mute hm, ticks_muted (s := qFlush s) hm rfl] at h
  cases h
  rfl

/-- Settles O28: the frame is `produce_sequencerOnly`, the other variant `produce_keepsOtherVariant`, and the queue is
`ticks_queue` or, muted, flushed. -/
theorem produceChangesOnlyTheSequencer : Obligations.ProduceChangesOnlyTheSequencer := by
  intro n s t h
  obtain ⟨_, xs, u, hticks, rfl⟩ := execProduce_next.mp h
  have hframe := produce_sequencerOnly hticks
  obtain ⟨_, hC, hR⟩ := produce_keepsOtherVariant hticks
  obtain ⟨hcfg, hfail, herr, hparam, hsym, hreq, hix⟩ := exec_keeps_configuration h
  refine ⟨?_, ?_, ?_, ?_, hfail, herr, hcfg, hparam, hsym, hreq, hix, hC, hR,
    fun hm => ?_, fun hm => ?_⟩
  · rw [hframe]; rfl
  · rw [hframe]; rfl
  · rw [hframe]; rfl
  · rw [hframe]; rfl
  · exact produce_queue_of_mute (t := u) hticks hm
  · rw [flushIfMuted_of_not_mute hm] at hticks
    exact ticks_queue (t := u) hticks hm

/-! ### Underrun -/

/-- With an empty queue a run of ticks, muted or not, leaves `PHASE` and `SR`: there is no boundary (41 R111). -/
theorem ticks_empty_queue {n : Nat} {s t : State} {xs : List Sample} (h : ticks n s = .ok (xs, t)) (hq : s.queue = []) :
    t.phase = s.phase ∧ t.sr = s.sr := by
  suffices t.queue = [] ∧ t.phase = s.phase ∧ t.sr = s.sr from this.2
  refine ticks_induction (P := fun v => v.queue = [] ∧ v.phase = s.phase ∧ v.sr = s.sr) (fun v w x hx hv => ?_) h
    ⟨hq, rfl, rfl⟩
  obtain ⟨hvq, hvp, hvs⟩ := hv
  obtain ⟨_, _, rfl⟩ | ⟨_, _, _, _, rfl⟩ | ⟨_, _, _, _, rfl⟩ | ⟨d, rest, _, _, hcons, _⟩ := tick_cases hx
  · exact ⟨rfl, hvp, hvs⟩
  · exact ⟨hvq, hvp, hvs⟩
  · rw [advanceCursor_eq]
    exact ⟨hvq, hvp, hvs⟩
  · rw [hvq] at hcons
    cases hcons

/-- In EMITTING the first sample of a request is the ROM sample of the active entry. -/
theorem ticks_emitting_head {n : Nat} {s t : State} {xs : List Sample} (h : ticks (n + 1) s = .ok (xs, t))
    (hm : s.mute = false) (ha : s.actV = true) : ∃ ys, xs = romOf s :: ys := by
  obtain ⟨x, s', ys, hx, _, rfl⟩ := ticks_succ_eq_ok.mp h
  obtain ⟨hm', _⟩ | ⟨_, ha', _⟩ | ⟨_, _, _, rfl, _⟩ | ⟨d, rest, _, ha', _⟩ := tick_cases hx
  · rw [hm] at hm'
    cases hm'
  · rw [ha] at ha'
    cases ha'
  · exact ⟨ys, rfl⟩
  · rw [ha] at ha'
    cases ha'

/-- Settles O33: in IDLE every tick is an underrun (`ticks_underrun`); in EMITTING the first sample is a ROM sample and no
boundary follows. -/
theorem underrunIsIdempotent : Obligations.UnderrunIsIdempotent := by
  intro n s hf hm hq
  constructor
  · intro ha
    rw [← List.map_replicate]
    exact exec_produce_unmuted hf hm (ticks_underrun hm ha hq)
  · intro ha t ht
    obtain ⟨_, xs, u, hticks, rfl⟩ := execProduce_next.mp ht
    rw [flushIfMuted_of_not_mute hm] at hticks
    obtain ⟨hphase, hsr⟩ := ticks_empty_queue hticks hq
    refine ⟨hphase, hsr, fun hn => ?_⟩
    have hpos : n.toNat ≠ 0 := fun h0 => hn (BitVec.eq_of_toNat_eq h0)
    obtain ⟨m, hm'⟩ := Nat.exists_eq_succ_of_ne_zero hpos
    rw [hm'] at hticks
    obtain ⟨ys, rfl⟩ := ticks_emitting_head hticks hm ha
    have hout : u.out = s.out := by rw [ticks_sequencerOnly hticks]
    exact ⟨romOf s, romOf_isZero s, by simp [hout]⟩

/-! ### Splitting a request -/

/-- The record of the outputs overwritten: the lists of log entry 14, which no tick reads. -/
def withRecord (o : List Emission) (c : List Nat) (s : State) : State := { s with out := o, counts := c }

theorem tick_withRecord (o : List Emission) (c : List Nat) {s t : State} {x : Sample} (h : tick s = .ok (x, t)) :
    tick (withRecord o c s) = .ok (x, withRecord o c t) := by
  refine tick_commute (withRecord o c) (fun _ => rfl) (fun _ => rfl) (fun _ => rfl) (fun _ => rfl) (fun _ => rfl)
    (fun _ => rfl) (fun _ => rfl) (fun v => ?_) (fun _ _ => rfl) (fun d rest => ?_) h
  · rw [advanceCursor_eq, advanceCursor_eq]
    rfl
  · unfold enterSymbol boundaryOf
    split <;> simp_all [withRecord, boundaryC, boundaryR]

theorem ticks_withRecord (o : List Emission) (c : List Nat) {n : Nat} {s t : State} {xs : List Sample}
    (h : ticks n s = .ok (xs, t)) : ticks n (withRecord o c s) = .ok (xs, withRecord o c t) :=
  ticks_commute (withRecord o c) (fun _ => True) (fun _ _ _ _ _ => trivial) (fun _ _ _ _ hx => tick_withRecord o c hx)
    trivial h

/-- After a request there is nothing left to flush. -/
theorem flushIfMuted_after_produce {n : Nat} {s t : State} {xs : List Sample}
    (h : ticks n (flushIfMuted s) = .ok (xs, t)) : flushIfMuted t = t := by
  have hmute : t.mute = s.mute := by rw [produce_sequencerOnly h]
  cases hm : s.mute with
  | true =>
    rw [flushIfMuted_of_mute (hmute.trans hm), qFlush, ← produce_queue_of_mute h hm]
  | false => exact flushIfMuted_of_not_mute (hmute.trans hm)

/-- Settles O35: the second request's ticks go on from the first's (`ticks_add`), once the record of the first is taken
out (`ticks_withRecord`). -/
theorem splittingARequestChangesNothing : Obligations.SplittingARequestChangesNothing := by
  intro a b c s t u hsum hst htu
  obtain ⟨hf, xs, v, hxs, rfl⟩ := execProduce_next.mp hst
  obtain ⟨_, ys, w, hys, rfl⟩ := execProduce_next.mp htu
  have hv : v.out = s.out ∧ v.counts = s.counts := by
    rw [produce_sequencerOnly hxs]
    exact ⟨rfl, rfl⟩
  have hw : w.out = v.out ++ xs.map .sample := by
    rw [produce_sequencerOnly hys]
    rfl
  have hback : withRecord v.out v.counts (flushIfMuted (emitSamples a.toNat xs v)) = v := by
    have hflush := flushIfMuted_after_produce hxs
    rw [flushIfMuted_eq] at hflush ⊢
    exact hflush
  have hsecond := ticks_withRecord v.out v.counts hys
  rw [hback] at hsecond
  have hwhole := ticks_add hxs hsecond
  rw [hsum] at hwhole
  have hprod : exec (.produce c) s = _ := execProduce_of_ticks hf hwhole
  rw [hprod]
  simp [emitSamples, withRecord, hv, hw]

/-! ### The length of a symbol -/

@[simp] theorem enterSymbol_out (d : Dibit) (rest : List Dibit) (s : State) : (enterSymbol d rest s).out = s.out := by
  rw [SequencerOnly.enterSymbol d rest s]

@[simp] theorem enterSymbol_counts (d : Dibit) (rest : List Dibit) (s : State) :
    (enterSymbol d rest s).counts = s.counts := by
  rw [SequencerOnly.enterSymbol d rest s]

/-- A quotient rounded up is the number of strides that reaches the end and no less (41 R103). -/
theorem ceil_div_spec {a d n : Nat} (ha : 0 < a) (hd : 0 < d) (hn : n = (a + d - 1) / d) :
    ∃ m, n = m + 1 ∧ m * d < a ∧ a ≤ (m + 1) * d := by
  have hdiv := Nat.div_add_mod (a + d - 1) d
  have hmod := Nat.mod_lt (a + d - 1) hd
  rw [← hn] at hdiv
  cases n with
  | zero => omega
  | succ m =>
    rw [Nat.mul_succ, mul_comm] at hdiv
    exact ⟨m, rfl, by omega, by rw [Nat.succ_mul]; omega⟩

/-- The sample that the active entry gives at an offset. -/
def sampleAt (s : State) (k : Nat) : Sample :=
  if s.cfg.complex then .romC s.actP s.actW k else .romR s.actW8 k

theorem romOf_eq_sampleAt (s : State) : romOf s = sampleAt s s.cursor := rfl

/-- A tick that does not reach the end of the symbol. -/
theorem tick_inside {s : State} (hm : s.mute = false) (ha : s.actV = true) (hlt : s.cursor + s.cfg.d < s.cfg.sps) :
    tick s = .ok (romOf s, { s with cursor := s.cursor + s.cfg.d }) := by
  rw [tick_emitting hm ha (by omega), advanceCursor_eq, nextCursor_eq, if_pos hlt, decide_eq_true hlt, Bool.and_true]

/-- The tick that ends the symbol: the cursor wraps and `ACT_V` is cleared. -/
theorem tick_last {s : State} (hm : s.mute = false) (ha : s.actV = true) (hk : s.cursor ≤ s.cfg.sps)
    (hge : ¬ s.cursor + s.cfg.d < s.cfg.sps) :
    tick s = .ok (romOf s, { s with cursor := s.cursor + s.cfg.d - s.cfg.sps, actV := false }) := by
  rw [tick_emitting hm ha hk, advanceCursor_eq, nextCursor_eq, if_neg hge, decide_eq_false hge, Bool.and_false]

/-- The ticks from the cursor to the end of the active symbol: one sample a stride, and the last ends the symbol. -/
theorem ticks_to_end_of_symbol {m : Nat} {s : State} (hm : s.mute = false) (ha : s.actV = true)
    (hbefore : s.cursor + m * s.cfg.d < s.cfg.sps) (hlast : s.cfg.sps ≤ s.cursor + (m + 1) * s.cfg.d) :
    ticks (m + 1) s = .ok
      ((List.range (m + 1)).map (fun i => sampleAt s (s.cursor + i * s.cfg.d)),
       { s with cursor := s.cursor + (m + 1) * s.cfg.d - s.cfg.sps, actV := false }) := by
  induction m generalizing s with
  | zero =>
    rw [Nat.zero_mul] at hbefore
    rw [Nat.zero_add, Nat.one_mul] at hlast ⊢
    refine (ticks_one (tick_last hm ha (by omega) hlast.not_gt)).trans ?_
    simp [romOf_eq_sampleAt]
  | succ m ih =>
    have hstride (k : Nat) : s.cursor + (k + 1) * s.cfg.d = s.cursor + s.cfg.d + k * s.cfg.d := by
      rw [Nat.succ_mul]
      omega
    rw [hstride] at hbefore hlast ⊢
    have hrest := ih (s := { s with cursor := s.cursor + s.cfg.d }) hm ha hbefore hlast
    refine ticks_succ_eq_ok.mpr ⟨_, _, _, tick_inside hm ha (by omega), hrest, ?_⟩
    rw [List.range_succ_eq_map (n := m + 1), List.map_cons, List.map_map, Nat.zero_mul, Nat.add_zero]
    refine congrArg (List.cons _) (List.map_congr_left fun i _ => ?_)
    rw [Function.comp_apply, Nat.succ_eq_add_one, hstride]
    rfl

/-- Settles O36: from IDLE the first tick is the one inside the symbol it begins (`tick_eq_tick_enterSymbol`), and from
there `ticks_to_end_of_symbol`, the count being the quotient rounded up. -/
theorem symbolLengthFollowsTheFormula : Obligations.SymbolLengthFollowsTheFormula := by
  intro n s d rest hf hidle hq hc hd _ hn b x
  obtain ⟨hm, ha⟩ := mode_eq_idle.mp hidle
  obtain ⟨m, hnm, hbefore, hlast⟩ := ceil_div_spec (by omega) hd hn
  have hb : b = enterSymbol d rest s := rfl
  have hx : x = sampleAt (enterSymbol d rest s) := by
    funext k
    simp [x, sampleAt, hb]
  have hfirst : ticks (m + 1) s = ticks (m + 1) (enterSymbol d rest s) := by
    simp only [ticks, tick_eq_tick_enterSymbol hm ha hq hc.le]
  have hsymbol := ticks_to_end_of_symbol (m := m) (s := enterSymbol d rest s) (by simpa using hm) (by simp)
    (by simp only [enterSymbol_cursor, enterSymbol_cfg]; omega) (by simp only [enterSymbol_cursor, enterSymbol_cfg]; omega)
  rw [← hfirst, ← hnm] at hsymbol
  rw [exec_produce_unmuted hf hm hsymbol, hx, hb]
  simp [emitSamples, hnm, mul_comm, Function.comp_def]

/-! ### One sample a symbol -/

/-- Sample `k` of a modulation of `ds` from `s`: the phase accumulated and the window of the dibits up to the `k`-th
(41 R108, R109). -/
def IsModulated (s : State) (ds : List Dibit) (k : Nat) (x : Sample) : Prop :=
  ∃ (p : BitVec 3) (w : BitVec 6), x = .romC p w s.cursor ∧
    (p.toNat : Int) = ((s.phase.toNat : Int) + (((s.prev :: ds).take k).map (phaseIncOf s.cfg)).sum) % 8 ∧
    w.toNat = (ds.take (k + 1)).foldl (fun v d => (4 * v + d.toNat) % 64) s.sr.toNat

/-- The state after a symbol of one sample: the boundary done, the entry given up, the cursor where it was. -/
def afterSymbol (d : Dibit) (rest : List Dibit) (s : State) : State :=
  { boundaryC d { s with queue := rest } with actV := false }

/-- With `D = SPS` a tick in IDLE is a whole symbol (41 R97 c). -/
theorem tick_whole_symbol {s : State} {d : Dibit} {rest : List Dibit} (hidle : s.mode = .idle)
    (hcx : s.cfg.complex = true) (hq : s.queue = d :: rest) (hc : s.cursor < s.cfg.sps) (hd : s.cfg.d = s.cfg.sps) :
    tick s = .ok (.romC s.phase (shiftInDibit s.sr d) s.cursor, afterSymbol d rest s) := by
  obtain ⟨hm, ha⟩ := mode_eq_idle.mp hidle
  have henter : enterSymbol d rest s = boundaryC d { s with queue := rest } := by simp [enterSymbol, boundaryOf, hcx]
  rw [tick_eq_tick_enterSymbol hm ha hq hc.le, henter, tick_last (by exact hm) rfl (by exact hc.le) (by simp [hd])]
  simp [romOf, hcx, hd, afterSymbol, boundaryC]

/-- The sample of the first symbol. -/
theorem isModulated_first (s : State) (d : Dibit) (rest : List Dibit) :
    IsModulated s (d :: rest) 0 (.romC s.phase (shiftInDibit s.sr d) s.cursor) := by
  have hlt := s.phase.isLt
  refine ⟨_, _, rfl, ?_, by simp [shiftInDibit_sr]⟩
  simp
  omega

/-- A sample of the later symbols, seen from before the first. -/
theorem isModulated_later {s : State} {d : Dibit} {rest : List Dibit} {k : Nat} {x : Sample}
    (h : IsModulated (afterSymbol d rest s) rest k x) : IsModulated s (d :: rest) (k + 1) x := by
  obtain ⟨p, w, rfl, hp, hw⟩ := h
  have hphase : ((afterSymbol d rest s).phase.toNat : Int) = ((s.phase.toNat : Int) + phaseIncOf s.cfg s.prev) % 8 :=
    boundaryC_phase_toNat d { s with queue := rest }
  have hsr : (afterSymbol d rest s).sr.toNat = (4 * s.sr.toNat + d.toNat) % 64 := shiftInDibit_sr s.sr d
  refine ⟨p, w, rfl, ?_, ?_⟩
  · rw [hp, hphase, List.take_succ_cons, List.map_cons, List.sum_cons, ← add_assoc, Int.emod_add_emod]
    rfl
  · rw [hw, hsr, List.take_succ_cons, List.foldl_cons]

/-- With `D = SPS` the ticks consume the queue in FIFO order, one sample a dibit. -/
theorem ticks_one_sample_a_symbol {ds : List Dibit} {s : State} (hidle : s.mode = .idle) (hcx : s.cfg.complex = true)
    (hq : s.queue = ds) (hc : s.cursor < s.cfg.sps) (hd : s.cfg.d = s.cfg.sps) :
    ∃ xs t, ticks ds.length s = .ok (xs, t) ∧ t.queue = [] ∧ t.mode = .idle ∧
      ∀ k, k < ds.length → ∃ x, xs[k]? = some x ∧ IsModulated s ds k x := by
  induction ds generalizing s with
  | nil => exact ⟨[], s, rfl, hq, hidle, nofun⟩
  | cons d rest ih =>
    have hidle' : (afterSymbol d rest s).mode = .idle := mode_eq_idle.mpr ⟨(mode_eq_idle.mp hidle).1, rfl⟩
    obtain ⟨xs, t, hticks, htq, htm, hxs⟩ := ih (s := afterSymbol d rest s) hidle' hcx rfl hc hd
    refine ⟨_, t, ticks_succ_eq_ok.mpr ⟨_, _, _, tick_whole_symbol hidle hcx hq hc hd, hticks, rfl⟩, htq, htm, ?_⟩
    intro k hk
    cases k with
    | zero => exact ⟨_, rfl, isModulated_first s d rest⟩
    | succ k =>
      obtain ⟨x, hx, hmod⟩ := hxs k (Nat.lt_of_succ_lt_succ hk)
      exact ⟨x, hx, isModulated_later hmod⟩

/-- Settles O37: `ticks_one_sample_a_symbol` over the whole queue. -/
theorem queueIsModulatedInFifoOrder : Obligations.QueueIsModulatedInFifoOrder := by
  intro n s ds hf hidle hcx hq hn hc hd
  obtain ⟨xs, t, hticks, htq, htm, hxs⟩ := ticks_one_sample_a_symbol hidle hcx hq hc hd
  have hlen := ticks_length hticks
  have hout : t.out = s.out := by rw [ticks_sequencerOnly hticks]
  rw [← hn] at hticks
  refine ⟨_, exec_produce_unmuted hf (mode_eq_idle.mp hidle).1 hticks, htq, htm, by simp [hout, hlen], fun k hk => ?_⟩
  obtain ⟨x, hx, p, w, rfl, hp, hw⟩ := hxs k hk
  refine ⟨p, w, ?_, hp, hw⟩
  rw [emitSamples_out, hout, List.getElem?_append_right (Nat.le_add_right _ _), Nat.add_sub_cancel_left,
    List.getElem?_map, hx]
  rfl

/-! ### Residues of the increments -/

/-- `PHASE_INC` overwritten. -/
def withIncrements (q : Quad Int) (s : State) : State := { s with cfg := { s.cfg with phaseInc := q } }

theorem withIncrements_outsideCommands (q : Quad Int) : OutsideCommands (withIncrements q) where

/-- The phase sum depends on the residue of the increment. -/
theorem addPhase_congr (p : BitVec 3) {i j : Int} (h : i % 8 = j % 8) : addPhase p i = addPhase p j := by
  have hi := addPhase_toNat p i
  have hj := addPhase_toNat p j
  apply BitVec.eq_of_toNat_eq
  omega

/-- Tables that agree modulo 8 give increments that do. -/
theorem phaseIncOf_emod_congr {c e : Cfg} (h0 : c.phaseInc.x0 % 8 = e.phaseInc.x0 % 8)
    (h1 : c.phaseInc.x1 % 8 = e.phaseInc.x1 % 8) (h2 : c.phaseInc.x2 % 8 = e.phaseInc.x2 % 8)
    (h3 : c.phaseInc.x3 % 8 = e.phaseInc.x3 % 8) (d : Dibit) : phaseIncOf c d % 8 = phaseIncOf e d % 8 := by
  unfold phaseIncOf
  split_ifs <;> assumption

/-- A boundary does not see a change of the table that keeps the residues modulo 8. -/
theorem boundaryC_withIncrements {q : Quad Int} {s : State} (h0 : q.x0 % 8 = s.cfg.phaseInc.x0 % 8)
    (h1 : q.x1 % 8 = s.cfg.phaseInc.x1 % 8) (h2 : q.x2 % 8 = s.cfg.phaseInc.x2 % 8)
    (h3 : q.x3 % 8 = s.cfg.phaseInc.x3 % 8) (d : Dibit) :
    boundaryC d (withIncrements q s) = withIncrements q (boundaryC d s) := by
  have hphase : addPhase (withIncrements q s).phase (phaseIncOf (withIncrements q s).cfg (withIncrements q s).prev) =
      addPhase s.phase (phaseIncOf s.cfg s.prev) :=
    addPhase_congr s.phase (phaseIncOf_emod_congr h0 h1 h2 h3 s.prev)
  unfold boundaryC
  rw [hphase]
  rfl

/-- Settles O38: the boundary does not see the change (`boundaryC_withIncrements`), and no other part of a command reads the
table. -/
theorem onlyIncrementResiduesMatter : Obligations.OnlyIncrementResiduesMatter := by
  intro n s t q h0 h1 h2 h3 hprod
  refine (withIncrements_outsideCommands q).exec (fun v hv => ⟨rfl, fun d rest => ?_⟩) hprod
  rw [← hv] at h0 h1 h2 h3
  unfold enterSymbol boundaryOf
  rw [show (withIncrements q v).cfg.complex = v.cfg.complex from rfl]
  split
  · exact boundaryC_withIncrements (s := { v with queue := rest }) h0 h1 h2 h3 d
  · rfl

end Sys2Proof.Machine
end

section
/-! PROOFS. The frame assembler's command APPCW (file 43): one codeword, the ninth with its unit, and nine in a row. -/

namespace Sys2Proof.Machine

/-! ### One codeword -/

/-- Settles O39: below eight the codeword is stored (`appendCodeword_of_lt`). -/
theorem appcwStoresOneCodeword : Obligations.AppcwStoresOneCodeword :=
  fun _ hf hp hcw => exec_appcw_of_ok hf hp (appendCodeword_of_lt hcw)

/-- Settles O41: the operand is refused before anything else is looked at. -/
theorem appcwRefusesAFieldOutsideItsWidth : Obligations.AppcwRefusesAFieldOutsideItsWidth := by
  intro s hf hp
  simp [exec, execAppcw, unlessFailed, hf, appcwWith, paramOperand, hp]

/-! ### The ninth codeword -/

/-- A bit of a finished unit: 0 at the positions to be zeroed, else the header's frame (43 R145, R146). -/
def unitBit (P : FramePrims) (c : Cfg) (unit : Nat) (f : List Bool) (i : Nat) : Bool :=
  if i ∈ c.zeroPos then false else P.setSyncBit f (headerWord c unit) i

/-- A dibit as the number of its two bits. -/
theorem dibitOf_eq_ofNat (hi lo : Bool) : dibitOf hi lo = BitVec.ofNat 2 (2 * hi.toNat + lo.toNat) := by
  rw [← dibitOf_toNat, BitVec.ofNat_toNat, BitVec.setWidth_eq]

/-- The dibits of a unit, one by one: the pairs of `unitBit`, even element first. -/
theorem unitDibits_eq {P : FramePrims} {c : Cfg} (unit : Nat) (f : List Bool) (hz : ∀ i ∈ c.zeroPos, i < c.frameBits) :
    unitDibits P c unit f = .ok ((List.range (c.frameBits / 2)).map fun j =>
      BitVec.ofNat 2 (2 * (unitBit P c unit f (2 * j)).toNat + (unitBit P c unit f (2 * j + 1)).toNat)) := by
  obtain ⟨g, hg, hlen, hel⟩ :=
    zeroPositions_spec (l := c.zeroPos) (f := setSync P c f (headerWord c unit)) (by simpa using hz)
  rw [setSync_length] at hlen hel
  have hbit (i : Nat) (hi : i < c.frameBits) : g[i]? = some (unitBit P c unit f i) := by
    rw [hel i hi, unitBit]
    split <;> simp [setSync, hi]
  obtain ⟨ds, hds, hdlen, hdel⟩ := frameDibits_spec (f := g) 0 (c.frameBits / 2) (by omega)
  have hmap : ds = (List.range (c.frameBits / 2)).map fun j =>
      BitVec.ofNat 2 (2 * (unitBit P c unit f (2 * j)).toNat + (unitBit P c unit f (2 * j + 1)).toNat) := by
    refine List.ext_getElem? fun j => ?_
    rcases lt_or_ge j (c.frameBits / 2) with hj | hj
    · obtain ⟨hi, lo, hhi, hlo, hd⟩ := hdel j hj
      rw [Nat.zero_add, hbit _ (by omega)] at hhi hlo
      cases hhi
      cases hlo
      rw [hd, dibitOf_eq_ofNat]
      simp [hj]
    · rw [List.getElem?_eq_none (by omega), List.getElem?_eq_none (by simpa using hj)]
  rw [unitDibits, hg, ← hmap]
  exact hds

/-- Settles O40: the ninth codeword appends its unit (`appendCodeword_of_eight`), whose dibits are `unitDibits_eq`. -/
theorem ninthCodewordEmitsTheUnit : Obligations.NinthCodewordEmitsTheUnit := by
  intro s hf hp hcw _ hz P f hw bit
  exact exec_appcw_of_ok hf hp (appendCodeword_of_eight (by rw [hcw]; rfl) (unitDibits_eq s.unit f hz))

/-! ### Nine codewords in a row -/

theorem run_succ_of_step {M : Host.Core} {k : Nat} {s t : M.State} (h : M.step s = .next t) :
    M.run (k + 1) s = M.run k t := by
  rw [Host.Core.run, h]

/-- A run of `a` steps that answers, then `b` more. -/
theorem run_add_of_next {M : Host.Core} {a b : Nat} {s t : M.State} (h : M.run a s = .next t) :
    M.run (a + b) s = M.run b t := by
  induction a generalizing s with
  | zero =>
    cases h
    rw [Nat.zero_add]
  | succ a ih =>
    rw [Host.Core.run] at h
    split at h
    · rename_i s' hs'
      rw [Nat.succ_add, run_succ_of_step hs']
      exact ih h
    · cases h
    · cases h

/-- The host's request of one codeword. -/
def codewordRequest (v : RealNum) (u : Params) : Request := .command ⟨0x2000, u, v⟩

/-- A step on a codeword's request is APPCW with the vector on `PARAM`. -/
theorem step_codewordRequest {s : State} {u : Params} {v : RealNum} {rest : List Request}
    (hr : s.requests = codewordRequest v u :: rest) :
    step s = exec .appcw { s with requests := rest, param := u, symIn := v } :=
  step_of_command hr (show decode 0x2000 = .ok .appcw by decide)

/-- `t` is `s` after codewords that did not complete a unit: the frame, its count, the ports and the requests differ. -/
def CodewordsStored (s t : State) : Prop :=
  t = { s with frame := t.frame, cwCount := t.cwCount, param := t.param, symIn := t.symIn, requests := t.requests }

theorem CodewordsStored.trans {s t u : State} (h : CodewordsStored s t) (k : CodewordsStored t u) :
    CodewordsStored s u := by
  unfold CodewordsStored at *
  rw [k, h]

/-- A step on a codeword's request before the ninth: stored and counted, with nothing queued. -/
theorem step_codeword {u : Params} {v : RealNum} {rest : List Request} {s : State} (hf : s.fail = false)
    (hp : Params.fits s.cfg.paramW u = true) (hcw : s.cwCount.toNat < 8) (hr : s.requests = codewordRequest v u :: rest) :
    ∃ t, step s = .next t ∧ CodewordsStored s t ∧ t.requests = rest ∧ t.cwCount.toNat = s.cwCount.toNat + 1 := by
  have hstored := appcwStoresOneCodeword { s with requests := rest, param := u, symIn := v } hf hp hcw
  refine ⟨_, (step_codewordRequest hr).trans hstored, rfl, rfl, ?_⟩
  have hone : (1 : BitVec 4).toNat = 1 := rfl
  rw [BitVec.toNat_add, hone]
  exact Nat.mod_eq_of_lt (Nat.succ_lt_succ (hcw.trans (by decide)))

/-- Codewords up to the eighth of a unit are stored and counted, one a step, with nothing queued. -/
theorem run_codewords {us : List Params} {v : RealNum} {rest : List Request} {s : State} (hf : s.fail = false)
    (hp : ∀ u ∈ us, Params.fits s.cfg.paramW u = true) (hcw : s.cwCount.toNat + us.length ≤ 8)
    (hr : s.requests = us.map (codewordRequest v) ++ rest) :
    ∃ t, Sys2Proof.core.run us.length s = .next t ∧ CodewordsStored s t ∧ t.requests = rest ∧
      t.cwCount.toNat = s.cwCount.toNat + us.length := by
  induction us generalizing s with
  | nil => exact ⟨s, rfl, rfl, hr, rfl⟩
  | cons u us ih =>
    rw [List.length_cons] at hcw
    obtain ⟨hpu, hpus⟩ := List.forall_mem_cons.mp hp
    obtain ⟨s', hstep, hs', hr', hcw'⟩ := step_codeword hf hpu (by omega) hr
    obtain ⟨t, hrun, ht, htr, htc⟩ := ih (s := s') (by rw [hs']; exact hf) (by rw [hs']; exact hpus) (by omega) hr'
    refine ⟨t, (run_succ_of_step hstep).trans hrun, hs'.trans ht, htr, ?_⟩
    rw [List.length_cons]
    omega

/-- Settles O42: eight codewords are stored (`run_codewords`), and the ninth appends a unit, which has half the frame's bits
as dibits (`unitDibits_length`). -/
theorem nineCodewordsEmitOneUnit : Obligations.NineCodewordsEmitOneUnit := by
  intro s us v rest hinv hf hcw hlen hp hr
  obtain ⟨⟨hlegal, _⟩, _⟩ := hinv.1 hf
  obtain ⟨es, u, rfl⟩ := (List.eq_nil_or_concat' us).resolve_left (by rintro rfl; cases hlen)
  have hes : es.length = 8 := by simpa using hlen
  have hpu : Params.fits s.cfg.paramW u = true := hp u (by simp)
  have hr' : s.requests = es.map (codewordRequest v) ++ codewordRequest v u :: rest := by
    rw [hr, List.map_append, List.append_assoc]
    rfl
  obtain ⟨t8, hrun8, ht8, htr, htc⟩ := run_codewords hf (fun w hw => hp w (by simp [hw])) (by rw [hcw, hes]; decide) hr'
  rw [hes] at hrun8 htc
  have hcount : t8.cwCount = 8 := BitVec.eq_of_toNat_eq (by rw [htc, hcw]; rfl)
  refine ⟨⟨t8, hrun8, by rw [ht8], hcount, by rw [ht8]⟩, ?_⟩
  have hcfg : t8.cfg = s.cfg := by rw [ht8]
  obtain ⟨ds, hds, hdlen⟩ := unitDibits_length (P := Config.framePrims t8.cfg.externals) (c := t8.cfg)
    (by rw [hcfg]; exact hlegal) t8.unit (interleave (Config.framePrims t8.cfg.externals) t8.cfg t8.frame
      (encodeParams (Config.framePrims t8.cfg.externals) t8.cfg u) 8)
  have hninth := exec_appcw_of_ok (s := { t8 with requests := rest, param := u, symIn := v })
    (by rw [ht8]; exact hf) (by rw [ht8]; exact hpu) (appendCodeword_of_eight (by rw [hcount]; rfl) hds)
  refine ⟨_, ds, (run_add_of_next (b := 1) hrun8).trans (run_succ_of_step ((step_codewordRequest htr).trans hninth)), ?_⟩
  rw [hcfg] at hdlen
  rw [ht8]
  exact ⟨hdlen, rfl, rfl, rfl, rfl, rfl, rfl, rfl, rfl, rfl, rfl, rfl, rfl, rfl, rfl, rfl, rfl, rfl⟩

end Sys2Proof.Machine
end

section
/-! PROOFS. The slicer (file 44), on the real numbers that its data stand for. -/

namespace Sys2Proof.Machine

/-! ### The algorithm on real numbers -/

/-- CLASSIFY's algorithm on four real thresholds and a real sample (44 R162). -/
noncomputable def sliceOfReals (T : Quad ℝ) (x : ℝ) : Dibit := slice (fun a b => decide (a < b)) 0 T x

/-- What the slicer computes on data is the algorithm on the real numbers they stand for. -/
theorem sliceReal_eq_sliceOfReals (N : NamedReals) (t : Quad RealNum) (x : RealNum) :
    sliceReal N t x = sliceOfReals (t.map (realValue N)) (realValue N x) := by
  refine slice_congr (realValue N) (fun a b => ?_) (by simp) t x
  rw [Bool.eq_iff_iff, realLess_iff, decide_eq_true_iff]

/-- The algorithm, test by test: the two overrides, then the polarity branch (44 R156). -/
theorem sliceOfReals_eq (T : Quad ℝ) (x : ℝ) :
    sliceOfReals T x =
      if T.x1 ≤ x ∧ x < T.x2 then 0
      else if T.x0 ≤ x ∧ x < T.x1 then 2
      else if T.x3 < 0 then (if T.x3 ≤ x ∧ x < T.x0 then 3 else 1)
      else if T.x2 ≤ x ∧ x < T.x3 then 1 else 3 := by
  simp [sliceOfReals, slice, inBand]

theorem exec_classify {s : State} (hf : s.fail = false) :
    exec .classify s = .next { s with out := s.out ++ [.dibit (sliceReal Config.namedReals s.cfg.t s.symIn)] } :=
  unlessFailed_ok _ hf

/-- CLASSIFY outside FAILED, its dibit read on the real numbers. -/
theorem exec_classify_reals {s : State} (hf : s.fail = false) :
    exec .classify s = .next { s with out := s.out ++ [.dibit
      (sliceOfReals (s.cfg.t.map (realValue Config.namedReals)) (realValue Config.namedReals s.symIn))] } := by
  rw [← sliceReal_eq_sliceOfReals]
  exact exec_classify hf

/-- Settles O45: on the reals the slicer is `sliceOfReals_eq`; the statement's order of the tests is the same function in
either polarity. -/
theorem classifyAppliesTheThresholdTests : Obligations.ClassifyAppliesTheThresholdTests := by
  refine ⟨fun N t x => ?_, fun s hf => exec_classify hf, by decide⟩
  rw [sliceReal_eq_sliceOfReals, sliceOfReals_eq]
  by_cases hneg : (t.map (realValue N)).x3 < 0 <;> simp [hneg]

theorem not_inBand_of_lt {lo hi x : ℝ} (h : x < lo) : ¬ (lo ≤ x ∧ x < hi) := fun hb => hb.1.not_gt h

theorem not_inBand_of_ge {lo hi x : ℝ} (h : hi ≤ x) : ¬ (lo ≤ x ∧ x < hi) := fun hb => hb.2.not_ge h

/-- Settles O46: on each band the tests of `sliceOfReals_eq` that fail do so because the sample is below or above them. -/
theorem ascendingThresholdsGiveFiveBands : Obligations.AscendingThresholdsGiveFiveBands := by
  intro s hf T x h01 h12 h23 h3
  refine ⟨_, exec_classify_reals hf, fun hx => ?_, fun hx hx' => ?_, fun hx hx' => ?_, fun hx hx' => ?_, fun hx => ?_⟩ <;>
    rw [sliceOfReals_eq]
  · rw [if_neg (not_inBand_of_lt (hx.trans_le h01)), if_neg (not_inBand_of_lt hx), if_neg h3.not_gt,
      if_neg (not_inBand_of_lt (hx.trans_le (h01.trans h12)))]
  · rw [if_neg (not_inBand_of_lt hx'), if_pos ⟨hx, hx'⟩]
  · rw [if_pos ⟨hx, hx'⟩]
  · rw [if_neg (not_inBand_of_ge hx), if_neg (not_inBand_of_ge (h12.trans hx)), if_neg h3.not_gt, if_pos ⟨hx, hx'⟩]
  · rw [if_neg (not_inBand_of_ge (h23.trans hx)), if_neg (not_inBand_of_ge (h12.trans (h23.trans hx))), if_neg h3.not_gt,
      if_neg (not_inBand_of_ge hx)]

/-- Settles O47: with `T3 < 0` the band from `T3` up to `T0` is empty, so the polarity branch gives 1. -/
theorem negativeTopThresholdNeverGivesThree : Obligations.NegativeTopThresholdNeverGivesThree := by
  intro s hf T x h01 h12 h23 h3
  have hempty : ¬ (T.x3 ≤ x ∧ x < T.x0) := fun hb => (hb.1.trans_lt hb.2).not_ge (h01.trans (h12.trans h23))
  have hslice : sliceOfReals T x =
      if T.x1 ≤ x ∧ x < T.x2 then 0 else if T.x0 ≤ x ∧ x < T.x1 then 2 else 1 := by
    rw [sliceOfReals_eq, if_pos h3, if_neg hempty]
  refine ⟨_, exec_classify_reals hf, ?_, fun hx => ?_, fun hx hx' => ?_, fun hx hx' => ?_, fun hx => ?_⟩ <;> rw [hslice]
  · split_ifs <;> decide
  · rw [if_neg (not_inBand_of_lt (hx.trans_le h01)), if_neg (not_inBand_of_lt hx)]
  · rw [if_neg (not_inBand_of_lt hx'), if_pos ⟨hx, hx'⟩]
  · rw [if_pos ⟨hx, hx'⟩]
  · rw [if_neg (not_inBand_of_ge hx), if_neg (not_inBand_of_ge (h12.trans hx))]

/-- Settles O48: the dibit is a function of the real numbers alone (`exec_classify_reals`). -/
theorem classifyIsAPureFunction : Obligations.ClassifyIsAPureFunction := by
  intro s u hs hu hx ht
  refine ⟨_, exec_classify_reals hs, ?_⟩
  rw [hx, ht]
  exact exec_classify_reals hu

/-- The names standing for a given sequence of reals, with the order of those reals. -/
noncomputable def namedRealsOf (f : Nat → ℝ) : NamedReals where
  value := f
  less a b := decide (a.valueWith f < b.valueWith f)
  less_iff _ _ := decide_eq_true_iff

/-- Settles O49: the comparison is `realLess_iff`, and `namedRealsOf` names any sequence of reals. -/
theorem everyRealNumberCanBeGiven : Obligations.EveryRealNumberCanBeGiven :=
  ⟨realLess_iff, realValue_rat, fun f => ⟨namedRealsOf f, realValue_named _⟩⟩

end Sys2Proof.Machine
end

section
/-! PROOFS. The waveform table (file 40): BUILD over the reals. -/

namespace Sys2Proof.Machine

/-- The wrapped value lies in `[-4, 4)` (40 R81). -/
theorem wrap8_mem (v : ℝ) : -4 ≤ wrap8 v ∧ wrap8 v < 4 := by
  have hle := Int.floor_le ((v + 4) / 8)
  have hlt := Int.lt_floor_add_one ((v + 4) / 8)
  unfold wrap8
  constructor <;> linarith

/-- A turn by a multiple of 8 units of 45 degrees is a multiple of the full turn. -/
theorem wrap8_angle (v : ℝ) : wrap8 v * (Real.pi / 4) = v * (Real.pi / 4) - (⌊(v + 4) / 8⌋ : ℝ) * (2 * Real.pi) := by
  unfold wrap8
  ring

/-- Settles O51: the wrap subtracts a multiple of 8, which is full turns (`wrap8_angle`). -/
theorem wrapStepIsUnobservable : Obligations.WrapStepIsUnobservable := by
  refine ⟨fun v => ⟨(wrap8_mem v).1, (wrap8_mem v).2, _, rfl⟩, fun W gain p w k => ?_⟩
  have hshape : shiftedShape W p w k = W.base w k + (W.refPhase w : ℝ) - (p : ℝ) := by
    unfold shiftedShape
    ring
  simp only [buildSample, wrap8_angle, Real.cos_sub_int_mul_two_pi, Real.sin_sub_int_mul_two_pi, hshape]

/-- The magnitude of a point on the circle of a radius is the radius. -/
theorem sqrt_polar {g : ℝ} (hg : 0 ≤ g) (θ : ℝ) : Real.sqrt ((g * Real.cos θ) ^ 2 + (g * Real.sin θ) ^ 2) = g := by
  rw [mul_pow, mul_pow, ← mul_add, Real.cos_sq_add_sin_sq, mul_one, Real.sqrt_sq hg]

/-- Settles O50: a sample is GAIN times a point of the unit circle. -/
theorem romMagnitudeIsTheGain : Obligations.RomMagnitudeIsTheGain := by
  intro N W c p w k hg
  have hmag := sqrt_polar hg (wrap8 (shiftedShape W p.toNat w.toNat k) * (Real.pi / 4))
  exact ⟨hmag.le, hmag⟩

/-- Settles O52: GAIN is a factor of both parts. -/
theorem zeroGainHidesTheSamples : Obligations.ZeroGainHidesTheSamples := by
  intro N W c p w k hg
  simp [Sample.value, waveformRom, buildSample, hg]

end Sys2Proof.Machine
end

section
/-! PROOFS. The host agent's datagram source (file 42): the wire format, what one datagram does, and the drain loop. -/

namespace Sys2Proof.Machine

/-! ### The wire format -/

/-- A datagram's parse by its head of eight bytes and its body: the two legal bodies, with the same two header words
(42 R121). -/
theorem parseDatagram_append (cfg : SourceConfig) {head : List (BitVec 8)} (hhead : head.length = 8) :
    ∃ k q : BitVec 32, ∀ body, parseDatagram cfg (head ++ body) =
      if body.length = 2 * cfg.payloadSamples then some ⟨k, q, some (leSamples body)⟩
      else if body = [] then some ⟨k, q, none⟩ else none := by
  match head, hhead with
  | [_, _, _, _, _, _, _, _], _ => exact ⟨_, _, fun _ => rfl⟩

/-- Less than a header is no datagram. -/
theorem parseDatagram_of_short (cfg : SourceConfig) {bytes : List (BitVec 8)} (h : bytes.length < 8) :
    parseDatagram cfg bytes = none := by
  unfold parseDatagram
  split
  · simp only [List.length_cons] at h
    omega
  · rfl

/-- A datagram is accepted exactly with one of the two legal lengths (42 R125). -/
theorem parseDatagram_isSome_iff (cfg : SourceConfig) (bytes : List (BitVec 8)) :
    (parseDatagram cfg bytes).isSome = true ↔ bytes.length = 8 ∨ bytes.length = 8 + 2 * cfg.payloadSamples := by
  rcases lt_or_ge bytes.length 8 with hlt | hge
  · rw [parseDatagram_of_short cfg hlt, Option.isSome_none]
    constructor
    · nofun
    · omega
  · have hsplit : bytes.take 8 ++ bytes.drop 8 = bytes := List.take_append_drop 8 bytes
    have hbody : (bytes.drop 8).length = bytes.length - 8 := List.length_drop
    obtain ⟨k, q, hparse⟩ := parseDatagram_append cfg (head := bytes.take 8) (List.length_take_of_le hge)
    have hempty : bytes.drop 8 = [] ↔ bytes.length = 8 := by
      rw [← List.length_eq_zero_iff, hbody]
      omega
    rw [← hsplit, hparse, hsplit]
    simp only [hbody, hempty]
    split_ifs <;> simp <;> omega

/-- The sample of two bytes, the less significant first (42 R121). -/
theorem toInt_append_bytes (hi lo : BitVec 8) :
    (hi ++ lo : BitVec 16).toInt % 65536 = 256 * (hi.toNat : Int) + lo.toNat ∧
      -32768 ≤ (hi ++ lo : BitVec 16).toInt ∧ (hi ++ lo : BitVec 16).toInt < 32768 := by
  have hnat : (hi ++ lo : BitVec 16).toNat = 256 * hi.toNat + lo.toNat := by
    rw [BitVec.toNat_append, ← Nat.shiftLeft_add_eq_or_of_lt lo.isLt, Nat.shiftLeft_eq, mul_comm]
  have hhi := hi.isLt
  have hlo := lo.isLt
  rw [BitVec.toInt_eq_toNat_cond, hnat]
  split_ifs <;> omega

/-- A body of `2n` bytes is `n` samples, sample `i` of the bytes `2i` and `2i + 1`. -/
theorem leSamples_spec {n : Nat} {body : List (BitVec 8)} (h : body.length = 2 * n) :
    (leSamples body).length = n ∧ ∀ i, i < n → ∃ lo hi, body[2 * i]? = some lo ∧ body[2 * i + 1]? = some hi ∧
      (leSamples body)[i]? = some (hi ++ lo : BitVec 16).toInt := by
  induction n generalizing body with
  | zero =>
    obtain rfl := List.length_eq_zero_iff.mp h
    exact ⟨rfl, nofun⟩
  | succ n ih =>
    match body, h with
    | lo :: hi :: rest, h =>
      obtain ⟨hlen, hel⟩ := ih (body := rest) (by simp only [List.length_cons] at h; omega)
      refine ⟨by simp [leSamples, hlen], fun i hi' => ?_⟩
      cases i with
      | zero => exact ⟨lo, hi, rfl, rfl, rfl⟩
      | succ i => exact hel i (Nat.lt_of_succ_lt_succ hi')

/-! ### One datagram -/

/-- The line of a change of the key-up flag, when there is one (42 R126). -/
def keyUpLines (flag : Bool) (h : SourceState) : List LogLine := if flag = h.keyUp then [] else [.keyUpChange flag]

/-- The line of a sequence gap, when there is one (42 R127). -/
def gapLines (observed : BitVec 32) (h : SourceState) : List LogLine :=
  if isGap h.expected observed then [.gap h.expected observed] else []

/-- What a change of the key-up flag sends to a sink that was given. -/
def keyUpNotices (cfg : SourceConfig) (flag : Bool) (h : SourceState) : List Bool :=
  if flag = h.keyUp then [] else if cfg.hasSink then [flag] else []

/-- The samples a payload adds to the raw-audio queue (42 R129). -/
def payloadAudio (cfg : SourceConfig) : Option (List Int) → List Int
  | none => []
  | some samples => if cfg.useCompressedVoice then [] else samples

/-- The requests a payload makes of the block. -/
def payloadRequests (cfg : SourceConfig) (voc : List Int → Params) : Option (List Int) → List Request
  | none => []
  | some samples => if cfg.useCompressedVoice then [.command ⟨encode .appcw, voc samples, .rat 0⟩] else []

theorem noteKeyUp_eq (cfg : SourceConfig) (flag : Bool) (h : SourceState) :
    noteKeyUp cfg flag h = { h with
      keyUp := flag, log := h.log ++ keyUpLines flag h
      notifications := h.notifications ++ keyUpNotices cfg flag h } := by
  unfold noteKeyUp keyUpLines keyUpNotices
  split_ifs with hflag <;> simp [hflag]

theorem noteSequence_eq (observed : BitVec 32) (h : SourceState) :
    noteSequence observed h = { h with
      lastReceived := observed, expected := observed + 1, log := h.log ++ gapLines observed h } := by
  unfold noteSequence gapLines
  split_ifs <;> simp

theorem refreshHold_eq (cfg : SourceConfig) (now : Nat) (flag : Bool) (h : SourceState) :
    refreshHold cfg now flag h = { h with
      expiry := if flag then now + cfg.hold else h.expiry, timedOut := !flag && h.timedOut } := by
  cases flag <;> rfl

theorem dispatchPayload_eq (cfg : SourceConfig) (voc : List Int → Params) (payload : Option (List Int))
    (h : SourceState) :
    dispatchPayload cfg voc payload h =
      ({ h with rawAudio := h.rawAudio ++ payloadAudio cfg payload }, payloadRequests cfg voc payload) := by
  cases payload with
  | none => simp [dispatchPayload, payloadAudio, payloadRequests]
  | some samples =>
    unfold dispatchPayload payloadAudio payloadRequests
    split_ifs <;> simp_all

/-- A datagram of a wrong length: its line, and nothing else (42 R125). -/
theorem receive_of_none {cfg : SourceConfig} {bytes : List (BitVec 8)} (voc : List Int → Params) (now : Nat)
    (h : SourceState) (hp : parseDatagram cfg bytes = none) :
    receive cfg voc now bytes h = ({ h with log := h.log ++ [.badLength bytes.length] }, []) := by
  simp [receive, hp]

/-- Everything an accepted datagram does (42 R125 to R129). -/
theorem receive_of_some {cfg : SourceConfig} {bytes : List (BitVec 8)} {d : Datagram} (voc : List Int → Params)
    (now : Nat) (h : SourceState) (hp : parseDatagram cfg bytes = some d) :
    receive cfg voc now bytes h =
      ({ h with
          keyUp := keyUpFlag d, lastReceived := d.sequence, expected := d.sequence + 1
          expiry := if keyUpFlag d then now + cfg.hold else h.expiry, timedOut := !keyUpFlag d && h.timedOut
          rawAudio := h.rawAudio ++ payloadAudio cfg d.payload
          log := h.log ++ (keyUpLines (keyUpFlag d) h ++ gapLines d.sequence h)
          notifications := h.notifications ++ keyUpNotices cfg (keyUpFlag d) h },
        payloadRequests cfg voc d.payload) := by
  simp [receive, hp, dispatchPayload_eq, refreshHold_eq, noteSequence_eq, noteKeyUp_eq, gapLines]

/-- Settles O53: the lengths that are not legal do not parse (`parseDatagram_isSome_iff`), and then there is the line
alone. -/
theorem wrongLengthDatagramIsDiscarded : Obligations.WrongLengthDatagramIsDiscarded := by
  intro cfg voc now bytes h
  have hiff := parseDatagram_isSome_iff cfg bytes
  refine ⟨fun h8 hfull => ?_, fun hlegal => Option.isSome_iff_exists.mp (hiff.mpr hlegal)⟩
  have hnone : parseDatagram cfg bytes = none := by
    rw [← Option.not_isSome_iff_eq_none, hiff]
    exact fun hlegal => hlegal.elim h8 hfull
  have hrec := receive_of_none voc now h hnone
  exact ⟨hrec, fun rest => by simp [drainReads, hrec]⟩

/-- Settles O55: the flag, the notices and the lines as `receive_of_some` gives them; a gap's line is no key-up line. -/
theorem keyUpChangesAreLoggedAndNotified : Obligations.KeyUpChangesAreLoggedAndNotified := by
  intro cfg voc now bytes d h hp t
  have ht : t = _ := congrArg Prod.fst (receive_of_some voc now h hp)
  have hflag : t.keyUp = keyUpFlag d := by rw [ht]
  have hlog : t.log = h.log ++ (keyUpLines t.keyUp h ++ gapLines d.sequence h) := by rw [hflag, ht]
  have hnot : t.notifications = h.notifications ++ keyUpNotices cfg t.keyUp h := by rw [hflag, ht]
  refine ⟨by rw [hflag, keyUpFlag, decide_eq_true_iff], fun hsame => ?_, fun hdiff => ?_⟩
  · rw [hlog, hnot, List.drop_left, keyUpLines, keyUpNotices, if_pos hsame, if_pos hsame, List.append_nil, gapLines]
    refine ⟨rfl, fun b => ?_⟩
    split <;> simp
  · rw [hlog, hnot, keyUpLines, keyUpNotices, if_neg hdiff, if_neg hdiff]
    refine ⟨?_, by simp⟩
    split <;> simp

/-! ### The drain loop -/

/-- The requests of a datagram do not depend on the source's state or the time (42 R129). -/
theorem receive_requests (cfg : SourceConfig) (voc : List Int → Params) (now now' : Nat) (bytes : List (BitVec 8))
    (h h' : SourceState) : (receive cfg voc now bytes h).2 = (receive cfg voc now' bytes h').2 := by
  cases hp : parseDatagram cfg bytes with
  | none => rw [receive_of_none voc now h hp, receive_of_none voc now' h' hp]
  | some d => rw [receive_of_some voc now h hp, receive_of_some voc now' h' hp]

theorem drainReads_requests (cfg : SourceConfig) (voc : List Int → Params) (reads : List SocketRead)
    (h h' : SourceState) : (drainReads cfg voc reads h).2 = (drainReads cfg voc reads h').2 := by
  induction reads generalizing h h' with
  | nil => rfl
  | cons r rest ih =>
    cases r with
    | error code => rfl
    | datagram now bytes => exact congrArg₂ (· ++ ·) (receive_requests cfg voc now now bytes h h') (ih _ _)

theorem drain_requests (cfg : SourceConfig) (voc : List Int → Params) (now now' : Nat) (reads : List SocketRead)
    (h h' : SourceState) : (drain cfg voc now reads h).2 = (drain cfg voc now' reads h').2 := by
  unfold drain
  split
  · rfl
  · exact drainReads_requests cfg voc reads _ _

/-- Settles O54: the gap test is the one of 42 R127, the requests are `drain_requests`, and a datagram's samples are read
off it alone. -/
theorem sequenceGapsAreInformationalOnly : Obligations.SequenceGapsAreInformationalOnly := by
  refine ⟨fun observed h => ?_, drain_requests, fun cfg voc bytes => ?_⟩
  · simp [noteSequence, isGap, and_assoc]
  · cases hp : parseDatagram cfg bytes with
    | none => exact ⟨[], fun now h => by rw [receive_of_none voc now h hp, List.append_nil]⟩
    | some d => exact ⟨payloadAudio cfg d.payload, fun now h => by rw [receive_of_some voc now h hp]⟩

/-- A datagram adds lines to the log, none of them a timeout's. -/
theorem receive_log (cfg : SourceConfig) (voc : List Int → Params) (now : Nat) (bytes : List (BitVec 8))
    (h : SourceState) : ∃ lines, (receive cfg voc now bytes h).1.log = h.log ++ lines ∧ .keyUpTimeout ∉ lines := by
  cases hp : parseDatagram cfg bytes with
  | none => exact ⟨_, by rw [receive_of_none voc now h hp], by simp⟩
  | some d =>
    refine ⟨_, by rw [receive_of_some voc now h hp], ?_⟩
    unfold keyUpLines gapLines
    split_ifs <;> simp

/-- Reading the socket adds lines to the log, none of them a timeout's. -/
theorem drainReads_log (cfg : SourceConfig) (voc : List Int → Params) (reads : List SocketRead) (h : SourceState) :
    ∃ lines, (drainReads cfg voc reads h).1.log = h.log ++ lines ∧ .keyUpTimeout ∉ lines := by
  induction reads generalizing h with
  | nil => exact ⟨[], by simp [drainReads], by simp⟩
  | cons r rest ih =>
    cases r with
    | error code =>
      simp only [drainReads, noteSocketError]
      split
      · exact ⟨[], by simp, by simp⟩
      · exact ⟨_, rfl, by simp⟩
    | datagram now bytes =>
      obtain ⟨l, hl, hnl⟩ := receive_log cfg voc now bytes h
      obtain ⟨m, hm, hnm⟩ := ih (receive cfg voc now bytes h).1
      exact ⟨l ++ m, hm.trans (by rw [hl, List.append_assoc]), by simp [hnl, hnm]⟩

/-- A drain adds lines to the log of the source whose timer was looked at, none of them a timeout's. -/
theorem drain_log (cfg : SourceConfig) (voc : List Int → Params) (now : Nat) (reads : List SocketRead)
    (h : SourceState) :
    ∃ lines, (drain cfg voc now reads h).1.log = (observeTimeout now h).log ++ lines ∧ .keyUpTimeout ∉ lines := by
  unfold drain
  split
  · exact ⟨[], by simp, by simp⟩
  · exact drainReads_log cfg voc reads _

/-- The timeout noted: the source remembers it, and logs it. -/
def timeoutNoted (h : SourceState) : SourceState := { h with timedOut := true, log := h.log ++ [.keyUpTimeout] }

theorem observeTimeout_of_expired {now : Nat} {h : SourceState} (hk : h.keyUp = true) (he : h.expiry ≤ now)
    (ht : h.timedOut = false) : observeTimeout now h = timeoutNoted h := by
  simp [observeTimeout, keyUpExpired, hk, he, ht, timeoutNoted]

theorem observeTimeout_of_not_expired {now : Nat} {h : SourceState}
    (hn : h.keyUp = false ∨ now < h.expiry ∨ h.timedOut = true) : observeTimeout now h = h := by
  have hcond : (keyUpExpired now h && !h.timedOut) = false := by
    obtain hk | he | ht := hn
    · simp [keyUpExpired, hk]
    · simp [keyUpExpired, he]
    · simp [ht]
  simp [observeTimeout, hcond]

/-- Settles O56: the refresh is `receive_of_some`; a drain looks at the timer once, first, and the lines it adds after that
are none of a timeout (`drain_log`). -/
theorem holdTimerIsRefreshedAndObserved : Obligations.HoldTimerIsRefreshedAndObserved := by
  constructor
  · intro cfg voc now bytes d h hp t
    have ht : t = _ := congrArg Prod.fst (receive_of_some voc now h hp)
    rw [ht]
    refine ⟨fun hw => ?_, fun hw => ?_⟩
    · have hflag : keyUpFlag d = true := decide_eq_true hw
      simp [hflag]
    · have hflag : keyUpFlag d = false := decide_eq_false (not_not.mpr hw)
      simp [hflag]
  intro cfg voc now reads h t noted
  refine ⟨fun hk he hto => ?_, fun hn => ?_⟩
  · have hobs : observeTimeout now h = noted := observeTimeout_of_expired hk he hto
    have hobs' : observeTimeout now noted = noted := observeTimeout_of_not_expired (.inr (.inr rfl))
    obtain ⟨lines, hlog, hnone⟩ := drain_log cfg voc now reads h
    rw [hobs] at hlog
    refine ⟨?_, ?_, drain_requests cfg voc now now reads h _, ?_, ?_⟩
    · simp only [t, drain, hobs, hobs']
    · simp only [t, drain, hobs]
    · rw [hlog]
      simp [noted]
    · rw [hlog, List.count_append, List.count_eq_zero.mpr hnone]
      simp [noted]
  · have hobs := observeTimeout_of_not_expired hn
    obtain ⟨lines, hlog, hnone⟩ := drain_log cfg voc now reads h
    rw [hobs] at hlog
    refine ⟨?_, ?_⟩
    · simp only [t, drain, hobs]
    · rw [hlog, List.count_append, List.count_eq_zero.mpr hnone, Nat.add_zero]

/-- Settles O57: a header with a body parses by the body's length (`parseDatagram_append`), and the payload goes where
`receive_of_some` says; its samples are `leSamples_spec`. -/
theorem payloadIsDispatchedByConfiguration : Obligations.PayloadIsDispatchedByConfiguration := by
  intro cfg voc now head body h hhead
  obtain ⟨k, q, hparse⟩ := parseDatagram_append cfg hhead
  constructor
  · rintro hpos rfl
    have hp := hparse []
    rw [if_neg (by simp; omega), if_pos rfl] at hp
    rw [receive_of_some voc now h hp]
    exact ⟨rfl, List.append_nil _⟩
  · intro hbody
    have hp := hparse body
    rw [if_pos hbody] at hp
    obtain ⟨hlen, hel⟩ := leSamples_spec hbody
    rw [receive_of_some voc now h hp]
    refine ⟨leSamples body, hlen, fun i hi => ?_, fun hcv => ?_, fun hcv => ?_⟩
    · obtain ⟨lo, hi', hlo, hhi, hx⟩ := hel i hi
      exact ⟨lo, hi', _, hlo, hhi, hx, toInt_append_bytes hi' lo⟩
    · simp [payloadRequests, payloadAudio, hcv, encode]
    · simp [payloadRequests, payloadAudio, hcv]

/-- What comes after an error is not read, wherever the error stands (42 R130). -/
theorem drainReads_append_error (cfg : SourceConfig) (voc : List Int → Params) (pre rest : List SocketRead) (code : Nat)
    (h : SourceState) :
    drainReads cfg voc (pre ++ .error code :: rest) h = drainReads cfg voc (pre ++ [.error code]) h := by
  induction pre generalizing h with
  | nil => rfl
  | cons r pre ih =>
    cases r with
    | error c => rfl
    | datagram now bytes => simp only [List.cons_append, drainReads, ih]

/-- Settles O58: an error's line is `noteSocketError`, and the reads after it are dropped by `drainReads_append_error`. -/
theorem socketErrorStopsTheDrain : Obligations.SocketErrorStopsTheDrain := by
  intro cfg voc now code rest h
  refine ⟨fun hne => ?_, fun heq => ?_, fun pre => drainReads_append_error cfg voc pre rest code h, fun hport => ?_⟩
  · simp [drainReads, noteSocketError, hne]
  · simp [drainReads, noteSocketError, heq]
  · simp [drain, hport]

/-- Settles O59: 5 meets the expected 0, 6 the expected 6, and 9 the expected 7. -/
theorem gapExampleLogsOneWarning : Obligations.GapExampleLogsOneWarning := by
  intro h hexp
  simp [noteSequence_eq, gapLines, isGap, hexp]

end Sys2Proof.Machine
end

section
/-! PROOFS. The assembly lines (30 section 7) and the words they become. -/

namespace Sys2Proof.Machine

/-- Assembling a line and reading something off its commands. -/
theorem assembleLine_map {α : Type} (c : Cfg) (l : AsmLine) (f : List Command → α) :
    (assembleLine c l).map f = if l.wf c then some (f (expandLine c l)) else none := by
  unfold assembleLine
  split <;> rfl

theorem pushdLine_word {d : Nat} (hd : d ≤ 3) : (pushdLine d).word.toNat = 0x1000 + d := by
  interval_cases d <;> rfl

theorem muteLine_word {m : Nat} (hm : m ≤ 1) : (plainCommand (.mute (BitVec.ofNat 1 m))).word.toNat = 0x4000 + m := by
  interval_cases m <;> rfl

theorem produceLine_word {n : Nat} (hn : n ≤ 4095) :
    (plainCommand (.produce (BitVec.ofNat 12 n))).word.toNat = 0x3000 + n := by
  have hop : (opcodeOf (.produce (BitVec.ofNat 12 n))).toNat = 3 := rfl
  rw [plainCommand, encode_toNat, hop, argOf, BitVec.toNat_ofNat]
  omega

/-- Settles O60: a line assembles exactly when its operands are in range (`assembleLine_map`), and then to the words of the
commands it stands for. -/
theorem assemblyFollowsTheNotation : Obligations.AssemblyFollowsTheNotation := by
  intro c words
  simp only [words, assembleLine_map, AsmLine.wf, expandLine, List.map_cons, List.map_nil, decide_eq_true_eq,
    if_true]
  refine ⟨fun d => ?_, fun n => ?_, fun m => ?_, fun x => rfl, fun u => rfl, rfl, rfl, fun ds => ?_, fun k => ?_⟩
  · split_ifs with hd
    · rw [pushdLine_word hd]
    · rfl
  · split_ifs with hn
    · rw [produceLine_word hn]
    · rfl
  · split_ifs with hm
    · rw [muteLine_word hm]
    · rfl
  · simp only [List.all_eq_true, decide_eq_true_eq, List.map_map]
    split_ifs with hds
    · exact congrArg some (List.map_congr_left fun d hd => pushdLine_word (hds d hd))
    · rfl
  · change _ = if symbolsCount c k ≤ 4095 then some [0x3000 + symbolsCount c k] else none
    split_ifs with hk
    · rw [produceLine_word hk]
    · rfl

end Sys2Proof.Machine
end
